-- ==== Sys2Proof/Word.lean ====
section
/-! DEFINITION. The word types of the CORE (00_scope.md R7, R9, R10): every quantity is unsigned. -/

namespace Sys2Proof

/-- A memory byte, a general register, a timer, the immediate `kk`. -/
abbrev Byte := BitVec 8

/-- An opcode, the index register, the instruction pointer, a return address. -/
abbrev Word := BitVec 16

/-- A 4-bit field of an opcode: a register index `x`, `y` (10_state.md R23) or the count `n`. -/
abbrev Nibble := BitVec 4

/-- The 12-bit address field `nnn`. -/
abbrev Addr12 := BitVec 12

end Sys2Proof
end

