-- ==== Sys2Proof/Config.lean ====
section
/-! DEFINITION. What an implementation fixes (00_scope.md R8: "a model takes each as a configuration argument") and the free values. -/

namespace Sys2Proof

/-- `VF_WRITE_ORDER` (D5): which write wins when VF is the destination of a flag-writing instruction. -/
inductive VfWriteOrder where
  | flagLast
  | resultLast
deriving DecidableEq, Repr

/-- `SHIFT_SOURCE` (D9): the register a shift reads. -/
inductive ShiftSource where
  | vx
  | vy
deriving DecidableEq, Repr

/-- `RET_EMPTY` (D13): what `ret` does to ip when the stack is empty. -/
inductive RetEmpty where
  | stay
  | advance
deriving DecidableEq, Repr

/-- `LOADSTORE_I_MODE` (D14): what `stm` and `ldm` do to I. -/
inductive LoadStoreMode where
  | unchanged
  | plusXPlus1
  | plusX
deriving DecidableEq, Repr

/-- The parameters of 00_scope.md R8. They are data of the machine (State holds them, nothing writes them),
so that a claim can be stated for every value. -/
structure Config where
  /-- `SYS_PRESENT` (D3): `0NNN` is a catalog entry. -/
  sysPresent : Bool
  /-- `VF_WRITE_ORDER` (D5). -/
  vfWriteOrder : VfWriteOrder
  /-- `ADDI_SETS_VF` (D7). -/
  addiSetsVf : Bool
  /-- `LOGIC_RESETS_VF` (D8). -/
  logicResetsVf : Bool
  /-- `SHIFT_SOURCE` (D9). -/
  shiftSource : ShiftSource
  /-- `JUMP_V0_PUSHES` (D12). -/
  jumpV0Pushes : Bool
  /-- `RET_EMPTY` (D13). -/
  retEmpty : RetEmpty
  /-- `LOADSTORE_I_MODE` (D14). -/
  loadStoreMode : LoadStoreMode
  /-- `FONT` (D16): 16 glyphs of 5 bytes, loaded at address 0. -/
  font : Vector Byte 80
  /-- `FONT_STRIDE` (D16): bytes per glyph. -/
  fontStride : Nat
  /-- `MAX_PROGRAM_BYTES` (D29), at most 4096 - 0x200 by its type. -/
  maxProgramBytes : Fin 3585
  /-- `STACK_DEPTH` (D38): `none` is the unbounded stack of the document. -/
  stackDepth : Option Nat
deriving DecidableEq, Repr

/-- The glyph bytes of 10_state.md R33, digit 0 first, top row first. -/
def Config.specFont : Vector Byte 80 :=
  #v[0xF0, 0x90, 0x90, 0x90, 0xF0,  0x20, 0x60, 0x20, 0x20, 0x70,
     0xF0, 0x10, 0xF0, 0x80, 0xF0,  0xF0, 0x10, 0xF0, 0x10, 0xF0,
     0x90, 0x90, 0xF0, 0x10, 0x10,  0xF0, 0x80, 0xF0, 0x10, 0xF0,
     0xF0, 0x80, 0xF0, 0x90, 0xF0,  0xF0, 0x10, 0x20, 0x40, 0x40,
     0xF0, 0x90, 0xF0, 0x90, 0xF0,  0xF0, 0x90, 0xF0, 0x10, 0xF0,
     0xF0, 0x90, 0xF0, 0x90, 0x90,  0xE0, 0x90, 0xE0, 0x90, 0xE0,
     0xF0, 0x80, 0x80, 0x80, 0xF0,  0xE0, 0x90, 0x90, 0x90, 0xE0,
     0xF0, 0x80, 0xF0, 0x80, 0xF0,  0xF0, 0x80, 0xF0, 0x80, 0x80]

/-- The values the spec takes (the table of 00_scope.md R8). -/
def Config.spec : Config :=
  { sysPresent := true
    vfWriteOrder := .flagLast
    addiSetsVf := false
    logicResetsVf := false
    shiftSource := .vx
    jumpV0Pushes := false
    retEmpty := .stay
    loadStoreMode := .unchanged
    font := Config.specFont
    fontStride := 5
    maxProgramBytes := 3584
    stackDepth := none }

/-- FREE VALUE (10_state.md R34, U14): the byte an `rnd` step draws when the host has supplied none,
at the `n`-th use of a free value. It has no body: nothing constrains it. -/
opaque Config.randomByte : Nat → Byte

/-- FREE VALUE (43_io_timers_random.md R172, U15): which of the pressed keys `wkey` stores, as an index into them
(taken modulo their number), at the `n`-th use of a free value. It has no body: nothing constrains it. -/
opaque Config.keyChoice : Nat → Nat

/-- FREE VALUE (60_exceptions.md R220, U18): a round of the run loop has this many instruction steps, plus one, before its
first tick; the argument is the round. It has no body: nothing constrains it. -/
opaque Config.stepsBeforeTick : Nat → Nat

/-- FREE VALUE (60_exceptions.md R220, U18): a round of the run loop ends with this many ticks, plus one; the argument is
the round. It has no body: nothing constrains it. -/
opaque Config.ticksBeforeStep : Nat → Nat

end Sys2Proof
end

