-- ==== Sys2Proof/Syntax.lean ====
section
/-! DEFINITION. The instructions: one constructor per row of spec/opcode_table.json (30_encoding.md R77), operands as the
layouts of R71 give them. -/

namespace Sys2Proof

/-- An instruction with its operands. `x`, `y` are register indices, `kk` and `nnn` immediates, `n` a count (R73). -/
inductive Instr where
  /-- `00E0` clear the framebuffer, R160. -/
  | cls
  /-- `00EE` return from subroutine, R136. -/
  | ret
  /-- `0NNN` machine-code call, executed as a no-op, R132. -/
  | sys (nnn : Addr12)
  /-- `1NNN` direct jump, R133. -/
  | jmp (nnn : Addr12)
  /-- `2NNN` call subroutine, R135. -/
  | call (nnn : Addr12)
  /-- `3XKK` skip if equal to immediate, R137. -/
  | sei (x : Nibble) (kk : Byte)
  /-- `4XKK` skip if not equal to immediate, R138. -/
  | snei (x : Nibble) (kk : Byte)
  /-- `5XY0` skip if registers equal, R139. -/
  | se (x y : Nibble)
  /-- `6XKK` load immediate, R101. -/
  | li (x : Nibble) (kk : Byte)
  /-- `7XKK` add immediate, R102. -/
  | addi (x : Nibble) (kk : Byte)
  /-- `8XY0` register copy, R103. -/
  | mov (x y : Nibble)
  /-- `8XY1` bitwise or, R104. -/
  | or (x y : Nibble)
  /-- `8XY2` bitwise and, R105. -/
  | and (x y : Nibble)
  /-- `8XY3` bitwise exclusive or, R106. -/
  | xor (x y : Nibble)
  /-- `8XY4` add with carry out, R107. -/
  | add (x y : Nibble)
  /-- `8XY5` subtract with borrow out, R108. -/
  | sub (x y : Nibble)
  /-- `8XY6` shift right by one, R110. -/
  | shr (x y : Nibble)
  /-- `8XY7` reverse subtract with borrow out, R109. -/
  | subn (x y : Nibble)
  /-- `8XYE` shift left by one, R111. -/
  | shl (x y : Nibble)
  /-- `9XY0` skip if registers differ, R140. -/
  | sne (x y : Nibble)
  /-- `ANNN` load the index register, R191. -/
  | ldi (nnn : Addr12)
  /-- `BNNN` jump to nnn + V0, R134. -/
  | jmpv0 (nnn : Addr12)
  /-- `CXKK` random byte masked by an immediate, R170. -/
  | rnd (x : Nibble) (kk : Byte)
  /-- `DXYN` XOR a sprite onto the framebuffer, R161. -/
  | draw (x y n : Nibble)
  /-- `EX9E` skip if key pressed, R141. -/
  | skp (x : Nibble)
  /-- `EXA1` skip if key not pressed, R142. -/
  | sknp (x : Nibble)
  /-- `FX07` read the delay timer, R171. -/
  | gdt (x : Nibble)
  /-- `FX0A` wait for a key, R172. -/
  | wkey (x : Nibble)
  /-- `FX15` set the delay timer, R173. -/
  | sdt (x : Nibble)
  /-- `FX18` set the sound timer, R174. -/
  | sst (x : Nibble)
  /-- `FX1E` add a register to the index register, R192. -/
  | iadd (x : Nibble)
  /-- `FX29` point I at a glyph, R193. -/
  | font (x : Nibble)
  /-- `FX33` store three decimal digits, R194. -/
  | bcd (x : Nibble)
  /-- `FX55` store V0..Vx, R195. -/
  | stm (x : Nibble)
  /-- `FX65` load V0..Vx, R196. -/
  | ldm (x : Nibble)
deriving DecidableEq, Repr

end Sys2Proof
end

