-- ==== Sys2Proof/WellFormed.lean ====
section
/-! DEFINITION. Which instructions have an encoding of their own (30_encoding.md R76, R77). The operand types already
keep every register index below 16 (10_state.md R23) and every immediate within its field. -/

namespace Sys2Proof

/-- `sys nnn` is an entry only when `SYS_PRESENT` is true, and its words 0x00E0 and 0x00EE are `cls` and `ret` (R76):
these are the two checks. Every other instruction is well formed. -/
def Instr.wf (sysPresent : Bool) : Instr → Bool
  | .sys nnn => sysPresent && nnn != 0x0E0#12 && nnn != 0x0EE#12
  | .cls => true
  | .ret => true
  | .jmp _ => true
  | .call _ => true
  | .sei _ _ => true
  | .snei _ _ => true
  | .se _ _ => true
  | .li _ _ => true
  | .addi _ _ => true
  | .mov _ _ => true
  | .or _ _ => true
  | .and _ _ => true
  | .xor _ _ => true
  | .add _ _ => true
  | .sub _ _ => true
  | .shr _ _ => true
  | .subn _ _ => true
  | .shl _ _ => true
  | .sne _ _ => true
  | .ldi _ => true
  | .jmpv0 _ => true
  | .rnd _ _ => true
  | .draw _ _ _ => true
  | .skp _ => true
  | .sknp _ => true
  | .gdt _ => true
  | .wkey _ => true
  | .sdt _ => true
  | .sst _ => true
  | .iadd _ => true
  | .font _ => true
  | .bcd _ => true
  | .stm _ => true
  | .ldm _ => true

end Sys2Proof
end

