-- ==== Sys2Proof/Decode.lean ====
section
/-! DEFINITION. Encoding and decoding (30_encoding.md R70-R78, R82): the catalog of 35 entries, matched in descending
specificity; the decoder over bytes, total and rejecting by name; and the encoder. -/

namespace Sys2Proof

/-! ### Bit fields and byte order -/

/-- `x = op[11:8]` (R73). -/
def Word.x (op : Word) : Nibble := op.extractLsb' 8 4

/-- `y = op[7:4]` (R73). -/
def Word.y (op : Word) : Nibble := op.extractLsb' 4 4

/-- `n = op[3:0]` (R73). -/
def Word.n (op : Word) : Nibble := op.extractLsb' 0 4

/-- `kk = op[7:0]` (R73). -/
def Word.kk (op : Word) : Byte := op.extractLsb' 0 8

/-- `nnn = op[11:0]` (R73). -/
def Word.nnn (op : Word) : Addr12 := op.extractLsb' 0 12

/-- The byte stored at the lower address: `op[15:8]` (20_memory.md R53). -/
def Word.hiByte (op : Word) : Byte := op.extractLsb' 8 8

/-- The byte stored at the higher address: `op[7:0]` (20_memory.md R53). -/
def Word.loByte (op : Word) : Byte := op.extractLsb' 0 8

/-- `MemRead(a, 1) ++ MemRead(a + 1, 1)`: big-endian (00_scope.md R12). -/
def Word.ofBytes (hi lo : Byte) : Word := hi ++ lo

/-- The number of one bits of a word. -/
def Word.popcount (w : Word) : Nat := ((List.range 16).filter (fun b => w.getLsbD b)).length

/-! ### The catalog -/

/-- The six operand layouts (R71). -/
inductive Layout where
  | noArg
  | address12
  | regImm8
  | regReg
  | reg
  | regRegImm4
deriving DecidableEq, Repr

/-- The mask of a layout: every bit that no operand uses is fixed (R72). -/
def Layout.mask : Layout → Word
  | .noArg => 0xFFFF
  | .reg => 0xF0FF
  | .regReg => 0xF00F
  | .address12 => 0xF000
  | .regImm8 => 0xF000
  | .regRegImm4 => 0xF000

/-- The catalog entries by mnemonic (R77). -/
inductive Mnemonic where
  | cls
  | ret
  | sys
  | jmp
  | call
  | sei
  | snei
  | se
  | li
  | addi
  | mov
  | or
  | and
  | xor
  | add
  | sub
  | shr
  | subn
  | shl
  | sne
  | ldi
  | jmpv0
  | rnd
  | draw
  | skp
  | sknp
  | gdt
  | wkey
  | sdt
  | sst
  | iadd
  | font
  | bcd
  | stm
  | ldm
deriving DecidableEq, Repr

/-- The layout column of R77. -/
def Mnemonic.layout : Mnemonic → Layout
  | .cls => .noArg
  | .ret => .noArg
  | .sys => .address12
  | .jmp => .address12
  | .call => .address12
  | .sei => .regImm8
  | .snei => .regImm8
  | .se => .regReg
  | .li => .regImm8
  | .addi => .regImm8
  | .mov => .regReg
  | .or => .regReg
  | .and => .regReg
  | .xor => .regReg
  | .add => .regReg
  | .sub => .regReg
  | .shr => .regReg
  | .subn => .regReg
  | .shl => .regReg
  | .sne => .regReg
  | .ldi => .address12
  | .jmpv0 => .address12
  | .rnd => .regImm8
  | .draw => .regRegImm4
  | .skp => .reg
  | .sknp => .reg
  | .gdt => .reg
  | .wkey => .reg
  | .sdt => .reg
  | .sst => .reg
  | .iadd => .reg
  | .font => .reg
  | .bcd => .reg
  | .stm => .reg
  | .ldm => .reg

/-- The fixed-value column of R77. -/
def Mnemonic.fixed : Mnemonic → Word
  | .cls => 0x00E0
  | .ret => 0x00EE
  | .sys => 0x0000
  | .jmp => 0x1000
  | .call => 0x2000
  | .sei => 0x3000
  | .snei => 0x4000
  | .se => 0x5000
  | .li => 0x6000
  | .addi => 0x7000
  | .mov => 0x8000
  | .or => 0x8001
  | .and => 0x8002
  | .xor => 0x8003
  | .add => 0x8004
  | .sub => 0x8005
  | .shr => 0x8006
  | .subn => 0x8007
  | .shl => 0x800E
  | .sne => 0x9000
  | .ldi => 0xA000
  | .jmpv0 => 0xB000
  | .rnd => 0xC000
  | .draw => 0xD000
  | .skp => 0xE09E
  | .sknp => 0xE0A1
  | .gdt => 0xF007
  | .wkey => 0xF00A
  | .sdt => 0xF015
  | .sst => 0xF018
  | .iadd => 0xF01E
  | .font => 0xF029
  | .bcd => 0xF033
  | .stm => 0xF055
  | .ldm => 0xF065

/-- An entry's mask is its layout's (R72). -/
def Mnemonic.mask (m : Mnemonic) : Word := m.layout.mask

/-- "`specificity = popcount(mask)`" (R74). -/
def Mnemonic.specificity (m : Mnemonic) : Nat := m.mask.popcount

/-- The instruction of an entry with the operands its layout extracts from the opcode (R73). -/
def Mnemonic.build (m : Mnemonic) (op : Word) : Instr :=
  match m with
  | .cls => .cls
  | .ret => .ret
  | .sys => .sys (Word.nnn op)
  | .jmp => .jmp (Word.nnn op)
  | .call => .call (Word.nnn op)
  | .sei => .sei (Word.x op) (Word.kk op)
  | .snei => .snei (Word.x op) (Word.kk op)
  | .se => .se (Word.x op) (Word.y op)
  | .li => .li (Word.x op) (Word.kk op)
  | .addi => .addi (Word.x op) (Word.kk op)
  | .mov => .mov (Word.x op) (Word.y op)
  | .or => .or (Word.x op) (Word.y op)
  | .and => .and (Word.x op) (Word.y op)
  | .xor => .xor (Word.x op) (Word.y op)
  | .add => .add (Word.x op) (Word.y op)
  | .sub => .sub (Word.x op) (Word.y op)
  | .shr => .shr (Word.x op) (Word.y op)
  | .subn => .subn (Word.x op) (Word.y op)
  | .shl => .shl (Word.x op) (Word.y op)
  | .sne => .sne (Word.x op) (Word.y op)
  | .ldi => .ldi (Word.nnn op)
  | .jmpv0 => .jmpv0 (Word.nnn op)
  | .rnd => .rnd (Word.x op) (Word.kk op)
  | .draw => .draw (Word.x op) (Word.y op) (Word.n op)
  | .skp => .skp (Word.x op)
  | .sknp => .sknp (Word.x op)
  | .gdt => .gdt (Word.x op)
  | .wkey => .wkey (Word.x op)
  | .sdt => .sdt (Word.x op)
  | .sst => .sst (Word.x op)
  | .iadd => .iadd (Word.x op)
  | .font => .font (Word.x op)
  | .bcd => .bcd (Word.x op)
  | .stm => .stm (Word.x op)
  | .ldm => .ldm (Word.x op)

/-- The entry an instruction belongs to. -/
def Instr.mnemonic : Instr → Mnemonic
  | .cls => .cls
  | .ret => .ret
  | .sys _ => .sys
  | .jmp _ => .jmp
  | .call _ => .call
  | .sei _ _ => .sei
  | .snei _ _ => .snei
  | .se _ _ => .se
  | .li _ _ => .li
  | .addi _ _ => .addi
  | .mov _ _ => .mov
  | .or _ _ => .or
  | .and _ _ => .and
  | .xor _ _ => .xor
  | .add _ _ => .add
  | .sub _ _ => .sub
  | .shr _ _ => .shr
  | .subn _ _ => .subn
  | .shl _ _ => .shl
  | .sne _ _ => .sne
  | .ldi _ => .ldi
  | .jmpv0 _ => .jmpv0
  | .rnd _ _ => .rnd
  | .draw _ _ _ => .draw
  | .skp _ => .skp
  | .sknp _ => .sknp
  | .gdt _ => .gdt
  | .wkey _ => .wkey
  | .sdt _ => .sdt
  | .sst _ => .sst
  | .iadd _ => .iadd
  | .font _ => .font
  | .bcd _ => .bcd
  | .stm _ => .stm
  | .ldm _ => .ldm

/-- The catalog in descending specificity (16, 12, 8, 4), each group in the order of R77; `sys` is an entry only when
`SYS_PRESENT` is true. -/
def catalog (sysPresent : Bool) : List Mnemonic :=
  [
    .cls, .ret] ++ [
    .skp, .sknp, .gdt, .wkey, .sdt, .sst, .iadd, .font, .bcd, .stm, .ldm] ++ [
    .se, .mov, .or, .and, .xor, .add, .sub, .shr, .subn, .shl, .sne] ++
  (if sysPresent then [.sys] else []) ++ [
    .jmp, .call, .sei, .snei, .li, .addi, .ldi, .jmpv0, .rnd, .draw]

/-- "`(word & mask) == fixed-value`" (R75). -/
def Mnemonic.matchesWord (m : Mnemonic) (op : Word) : Bool := op &&& m.mask == m.fixed

/-- `lookup_by_opcode` (R75): the first entry in descending specificity that matches, with its operands. -/
def lookupByOpcode (sysPresent : Bool) (op : Word) : Option Instr :=
  ((catalog sysPresent).find? (fun m => m.matchesWord op)).map (fun m => m.build op)

/-! ### Decoding bytes -/

/-- Why bytes are no instruction. -/
inductive DecodeReject where
  /-- Fewer than the 2 bytes every instruction has (R70). -/
  | tooShort
  /-- A word that no catalog entry matches (R78). -/
  | undecodable (op : Word)
deriving DecidableEq, Repr

/-- The decoder: the instruction at the head of the bytes and the bytes after it. -/
def decode (sysPresent : Bool) : List Byte → Except DecodeReject (Instr × List Byte)
  | hi :: lo :: rest =>
    match lookupByOpcode sysPresent (Word.ofBytes hi lo) with
    | some i => .ok (i, rest)
    | none => .error (.undecodable (Word.ofBytes hi lo))
  | [_] => .error .tooShort
  | [] => .error .tooShort

/-! ### Encoding -/

/-- "the operand bits shifted into the layout's reserved positions" (R82). -/
def Instr.operandBits : Instr → Word
  | .cls => 0
  | .ret => 0
  | .sys nnn => nnn.setWidth 16
  | .jmp nnn => nnn.setWidth 16
  | .call nnn => nnn.setWidth 16
  | .sei x kk => (x.setWidth 16 <<< 8) ||| kk.setWidth 16
  | .snei x kk => (x.setWidth 16 <<< 8) ||| kk.setWidth 16
  | .se x y => (x.setWidth 16 <<< 8) ||| (y.setWidth 16 <<< 4)
  | .li x kk => (x.setWidth 16 <<< 8) ||| kk.setWidth 16
  | .addi x kk => (x.setWidth 16 <<< 8) ||| kk.setWidth 16
  | .mov x y => (x.setWidth 16 <<< 8) ||| (y.setWidth 16 <<< 4)
  | .or x y => (x.setWidth 16 <<< 8) ||| (y.setWidth 16 <<< 4)
  | .and x y => (x.setWidth 16 <<< 8) ||| (y.setWidth 16 <<< 4)
  | .xor x y => (x.setWidth 16 <<< 8) ||| (y.setWidth 16 <<< 4)
  | .add x y => (x.setWidth 16 <<< 8) ||| (y.setWidth 16 <<< 4)
  | .sub x y => (x.setWidth 16 <<< 8) ||| (y.setWidth 16 <<< 4)
  | .shr x y => (x.setWidth 16 <<< 8) ||| (y.setWidth 16 <<< 4)
  | .subn x y => (x.setWidth 16 <<< 8) ||| (y.setWidth 16 <<< 4)
  | .shl x y => (x.setWidth 16 <<< 8) ||| (y.setWidth 16 <<< 4)
  | .sne x y => (x.setWidth 16 <<< 8) ||| (y.setWidth 16 <<< 4)
  | .ldi nnn => nnn.setWidth 16
  | .jmpv0 nnn => nnn.setWidth 16
  | .rnd x kk => (x.setWidth 16 <<< 8) ||| kk.setWidth 16
  | .draw x y n => (x.setWidth 16 <<< 8) ||| (y.setWidth 16 <<< 4) ||| n.setWidth 16
  | .skp x => x.setWidth 16 <<< 8
  | .sknp x => x.setWidth 16 <<< 8
  | .gdt x => x.setWidth 16 <<< 8
  | .wkey x => x.setWidth 16 <<< 8
  | .sdt x => x.setWidth 16 <<< 8
  | .sst x => x.setWidth 16 <<< 8
  | .iadd x => x.setWidth 16 <<< 8
  | .font x => x.setWidth 16 <<< 8
  | .bcd x => x.setWidth 16 <<< 8
  | .stm x => x.setWidth 16 <<< 8
  | .ldm x => x.setWidth 16 <<< 8

/-- The encoder: "a pure bitwise OR of the catalog entry's fixed value with the operand bits" (R82). -/
def encode (i : Instr) : Word := i.mnemonic.fixed ||| i.operandBits

/-- The two bytes of an instruction, big-endian (R70). -/
def encodeBytes (i : Instr) : List Byte := [(encode i).hiByte, (encode i).loByte]

/-- The instruction the decoder reads from a row's word as spec/opcode_table.json numbers its bits (bit 0 the least
significant bit of the 16-bit word, bits above `nbits` zero), laid out big-endian, with the spec's `SYS_PRESENT`. -/
def decodeTableWord (nbits w : Nat) : Option Instr :=
  let op : Word := BitVec.ofNat 16 (w % 2 ^ nbits)
  match decode Config.spec.sysPresent [op.hiByte, op.loByte] with
  | .ok (i, _) => some i
  | .error _ => none

end Sys2Proof
end

