-- ==== Sys2Proof/Machine/State.lean ====
section
/-! DEFINITION. The machine's state, the host's commands, the reasons a step stops, and the state after reset
(10_state.md; 60_exceptions.md R210, R226). Plain data only. -/

namespace Sys2Proof.Machine

/-- The two interpreter modes (R20). -/
inductive Mode where
  | idle
  | loaded
deriving DecidableEq, Repr

/-- One command of the block's interface (R41, R226); the inputs `keys` and `rand` are commands too, since the host
changes them between steps. Numbers the host may give out of range are naturals (R39, R226). -/
inductive Command where
  /-- One fetch-decode-execute (R80). -/
  | step
  /-- One firing of the 60 Hz timer (R219). -/
  | tick
  /-- `load(bytes)` (R230). -/
  | load (bytes : List Byte)
  /-- `get-register(index)` (R39). -/
  | getRegister (index : Nat)
  /-- `set-register(index, value)` (R39). -/
  | setRegister (index value : Nat)
  /-- `set-ip(addr)` (R39). -/
  | setIp (addr : Nat)
  /-- `get-pixel(x, y)` (R40). -/
  | getPixel (x y : Nat)
  /-- `set-pixel(x, y, value)` (R40). -/
  | setPixel (x y : Nat) (value : Bool)
  /-- The `KEY` input takes a new value (R32). -/
  | setKeys (keys : Vector Bool 16)
  /-- The host supplies one draw on the `rand` input (R34). -/
  | supplyRandom (value : Byte)
deriving DecidableEq, Repr

/-- The MODEL's own: where the run loop stands between the tick and the step (60_exceptions.md R220; log entry 16). Rounds
follow each other; each is some steps, at least one, and then some ticks, at least one. -/
structure Schedule where
  /-- How many rounds are over: the argument of the free values. -/
  round : Nat
  /-- Instruction steps taken in this round. -/
  steps : Nat
  /-- Ticks fired in this round. -/
  ticks : Nat
deriving DecidableEq, Repr

/-- Everything the spec gives the machine (INVENTORY.md, State). -/
structure State where
  /-- The parameters of 00_scope.md R8; nothing writes them. -/
  cfg : Config
  /-- R20. `loaded` also says that the 60 Hz tick is running (R219, R42). -/
  mode : Mode
  /-- `V[0]`..`V[15]`; `V[15]` is VF (R21, R22). -/
  v : Vector Byte 16
  /-- The index register `I` (R25). -/
  i : Word
  /-- The instruction pointer (R26). -/
  ip : Word
  /-- The call-return stack, its top first (R28). -/
  stack : List Word
  /-- Memory in canonical form: addresses rising, no entry equal to what an unlisted address reads as (R29). -/
  mem : List Host.Cell
  /-- The framebuffer, `FB[x][y]` in column x and row y (R30). -/
  fb : Vector (Vector Bool 32) 64
  /-- The delay timer (R31). -/
  dt : Byte
  /-- The sound timer (R31). -/
  st : Byte
  /-- `KEY[0]`..`KEY[15]`, true = pressed (R32). -/
  keys : Vector Bool 16
  /-- The output pulse of the last step (R35). -/
  renderRequest : Bool
  /-- The output pulse of the last tick (R36). -/
  soundAlert : Bool
  /-- The draws the host has supplied on `rand` and no `rnd` has used yet, the next first (R34, R41). -/
  rand : List Byte
  /-- The MODEL's own field: how many free values have been used (log entry 3). -/
  draws : Nat
  /-- The host's pending commands, the next first (R41, R237; log entry 4). -/
  queue : List Command
  /-- The MODEL's own field: which of the two agents moves next where no command is pending (R220; log entry 16). -/
  schedule : Schedule
deriving DecidableEq, Repr

/-- Why a step stops: the outcomes of R210 other than `ok`. Each is the spec's own, so each is safe. -/
inductive Fault where
  /-- R211, raised by the fetch-decode for a word no catalog entry matches. Safe: the spec's outcome. -/
  | decodeError (word : Word)
  /-- R212, raised by the fetch, `draw`, `bcd`, `stm`, `ldm` for the first address above 4095. Safe: the spec's outcome. -/
  | outOfBounds (addr : Nat)
  /-- R213, raised by a step in mode `idle`. Safe: the spec's outcome. -/
  | notLoaded
  /-- R214, raised by a push onto a full stack when `STACK_DEPTH` is bounded. Safe: the spec's outcome. -/
  | stackOverflow
  /-- R215, raised by `skp` and `sknp` when `V[x] > 15`. Safe: the spec's outcome. -/
  | keyOutOfRange (value : Byte)
deriving DecidableEq, Repr

/-- Why the model gives no meaning. -/
inductive Refusal where
  /-- Raised by an arm of `exec` whose instruction has no meaning yet; no arm is left so. Safe: the model stops. -/
  | notModelled (mnemonic : String)
deriving DecidableEq, Repr

/-- The machine after reset: `load` of the empty program (R230, R231, and the table of R42). Nothing is listed in
memory: an unlisted address reads as the reset contents (glyphs, then zero). `keys`, `rand`, `draws`, `queue` and
`schedule` are DESIGN CHOICES (log entries 2, 3, 4, 16). -/
def State.reset : State :=
  { cfg := Config.spec
    mode := .loaded
    v := Vector.replicate 16 0
    i := 0
    ip := 0x200
    stack := []
    mem := []
    fb := Vector.replicate 64 (Vector.replicate 32 false)
    dt := 0
    st := 0
    keys := Vector.replicate 16 false
    renderRequest := false
    soundAlert := false
    rand := []
    draws := 0
    queue := []
    schedule := { round := 0, steps := 0, ticks := 0 } }

/-- The block as created, before the first `load`: mode `idle` (R20). R42: "no state has a defined value" then, so the
other fields are a DESIGN CHOICE (log entry 5). -/
def State.created : State := { State.reset with mode := .idle }

end Sys2Proof.Machine
end

