-- ==== Sys2Proof/Machine/Ops.lean ====
section
/-! DEFINITION. The named operations over memory, registers, stack, framebuffer and inputs, and raising a fault
(00_scope.md R11-R13, 10_state.md, 20_memory.md, 60_exceptions.md R217). -/

namespace Sys2Proof.Machine

/-- What a step answers. -/
abbrev Result := Host.Outcome State Fault Refusal

/-! ### Faults -/

/-- A fault saves nothing, changes no state and transfers control nowhere: the step only reports it to the host, which
resumes with another command (R217). There is no return from it. -/
def raise (f : Fault) : Result := .fault f

/-! ### Memory -/

/-- `MEM_SIZE` (00_scope.md R7). -/
def memSize : Nat := 4096

/-- `PROGRAM_BASE`, the load address and entry point (00_scope.md R7). -/
def programBase : Nat := 0x200

/-- `FONT_BASE`, the glyph load address (00_scope.md R7). -/
def fontBase : Nat := 0

/-- What an unlisted address reads as: the contents after `load` outside the program (20_memory.md R51), which are the
80 glyph bytes from `FONT_BASE` = 0 and zero elsewhere. -/
def Memory.unlisted (font : Vector Byte 80) (a : Nat) : Byte := font[a]?.getD 0

/-- The byte at an address. -/
def Memory.read (font : Vector Byte 80) (m : List Host.Cell) (a : Nat) : Byte :=
  match m.find? (fun c => c.1 == a) with
  | some c => c.2
  | none => Memory.unlisted font a

/-- Put a cell before the first one of a higher address. -/
def Memory.insert (a : Nat) (b : Byte) : List Host.Cell → List Host.Cell
  | [] => [(a, b)]
  | c :: m => if a < c.1 then (a, b) :: c :: m else c :: Memory.insert a b m

/-- Store a byte. A value the unlisted address would read as is not listed, so equal memories are equal lists. -/
def Memory.write (font : Vector Byte 80) (m : List Host.Cell) (a : Nat) (b : Byte) : List Host.Cell :=
  let others := m.filter (fun c => c.1 != a)
  if b = Memory.unlisted font a then others else Memory.insert a b others

/-- The canonical form: addresses strictly rising and inside the address space, no entry equal to what an unlisted
address reads as. -/
abbrev Memory.wf (font : Vector Byte 80) (m : List Host.Cell) : Prop :=
  m.Pairwise (fun c d => c.1 < d.1) ∧ ∀ c ∈ m, c.1 < memSize ∧ c.2 ≠ Memory.unlisted font c.1

/-- The byte at an address of the state's memory; the caller has checked the address (`guardRange`). -/
def State.readByte (s : State) (a : Nat) : Byte := Memory.read s.cfg.font s.mem a

/-- Store a byte at an address; the caller has checked the address. -/
def State.writeByte (s : State) (a : Nat) (b : Byte) : State :=
  { s with mem := Memory.write s.cfg.font s.mem a b }

/-- The `len` bytes at consecutive ascending addresses (20_memory.md R55). -/
def State.readBytes (s : State) (base : Nat) : Nat → List Byte
  | 0 => []
  | len + 1 => s.readByte base :: s.readBytes (base + 1) len

/-- Store bytes at consecutive ascending addresses (20_memory.md R55). -/
def State.writeBytes (s : State) (base : Nat) : List Byte → State
  | [] => s
  | b :: bs => (s.writeByte base b).writeBytes (base + 1) bs

/-- The first address of `base, base + 1, ..., base + len - 1` above 4095; addresses are naturals and never wrap
(20_memory.md R52). -/
def firstOutOfBounds (base : Nat) : Nat → Option Nat
  | 0 => none
  | len + 1 => if memSize ≤ base then some base else firstOutOfBounds (base + 1) len

/-- Every address an access touches is checked before its first effect; the first one out of range is reported
(44_index_memory.md R190, 60_exceptions.md R212). -/
def guardRange (base len : Nat) (effect : Result) : Result :=
  match firstOutOfBounds base len with
  | some a => raise (.outOfBounds a)
  | none => effect

/-! ### Registers -/

/-- `V[r]` (R11, R21). -/
def State.getV (s : State) (r : Nibble) : Byte := s.v[r.toFin]

/-- `V[r] <- b` (R11, R21). -/
def State.setV (s : State) (r : Nibble) (b : Byte) : State := { s with v := s.v.set r.toFin b }

/-- `FLAG_INDEX`: VF is `V[15]` (00_scope.md R7). -/
def flagIndex : Nibble := 15

/-- `I <- w` (R25). -/
def State.setI (s : State) (w : Word) : State := { s with i := w }

/-- `ip <- w` (R26). -/
def State.setIp (s : State) (w : Word) : State := { s with ip := w }

/-- `ip <- a + 2` (30_encoding.md R81). -/
def State.advance (s : State) : State := s.setIp (s.ip + 2)

/-- `ip <- c ? a + 4 : a + 2` (41_control_flow.md R131). -/
def State.skipIf (s : State) (c : Bool) : State := s.setIp (if c then s.ip + 4 else s.ip + 2)

/-- `V[0]..V[n-1]` in order. -/
def State.lowRegisters (s : State) (n : Nat) : List Byte :=
  (List.range n).map (fun k => s.getV (BitVec.ofNat 4 k))

/-- `V[k], V[k+1], ... <- bytes` in order. -/
def State.setRegistersFrom (s : State) (k : Nat) : List Byte → State
  | [] => s
  | b :: bs => (s.setV (BitVec.ofNat 4 k) b).setRegistersFrom (k + 1) bs

/-- `DT <- b` (R31). -/
def State.setDt (s : State) (b : Byte) : State := { s with dt := b }

/-- `ST <- b` (R31). -/
def State.setSt (s : State) (b : Byte) : State := { s with st := b }

/-! ### The call-return stack -/

/-- Whether a bounded stack (`STACK_DEPTH`, R214) has no room; the unbounded one always has (R28). -/
def State.stackFull (s : State) : Bool :=
  match s.cfg.stackDepth with
  | none => false
  | some depth => depth ≤ s.stack.length

/-- `push(w)` (R11). -/
def State.pushed (s : State) (w : Word) : State := { s with stack := w :: s.stack }

/-- The stack replaced by what a pop leaves. -/
def State.setStack (s : State) (ws : List Word) : State := { s with stack := ws }

/-- Push the return address `a + 2` and go to the target; a full bounded stack faults and writes nothing
(41_control_flow.md R135, 60_exceptions.md R214). -/
def State.pushAndJump (s : State) (target : Word) : Result :=
  if s.stackFull then raise .stackOverflow else .next ((s.pushed (s.ip + 2)).setIp target)

/-! ### The framebuffer -/

/-- The framebuffer's type: columns of cells, `FB[x][y]`. -/
abbrev Frame := Vector (Vector Bool 32) 64

/-- `GetPixel(x, y)`: off outside the screen (00_scope.md R13, 10_state.md R40). -/
def Frame.pixel (fb : Frame) (x y : Nat) : Bool :=
  match fb[x]? with
  | some column => column[y]?.getD false
  | none => false

/-- `SetPixel(x, y, b)`: nothing happens outside the screen (00_scope.md R13, 10_state.md R40). -/
def Frame.setPixel (fb : Frame) (x y : Nat) (b : Bool) : Frame :=
  if hx : x < 64 then
    if hy : y < 32 then fb.set x (fb[x].set y b) else fb
  else fb

/-- All 64 x 32 cells off. -/
def Frame.blank : Frame := Vector.replicate 64 (Vector.replicate 32 false)

/-- The framebuffer replaced. -/
def State.setFb (s : State) (fb : Frame) : State := { s with fb := fb }

/-- `RequestRender()`: the pulse of this step (R35). -/
def State.requestRender (s : State) : State := { s with renderRequest := true }

/-- The pulse is low at the start of each step (R35). -/
def State.lowerRender (s : State) : State := { s with renderRequest := false }

/-! ### Inputs and free values -/

/-- `RandomByte()` (00_scope.md R13, 10_state.md R34): the host's next draw where it has supplied one, otherwise a free value;
and the state with that draw used up. -/
def State.randomByte (s : State) : Byte × State :=
  match s.rand with
  | b :: bs => (b, { s with rand := bs })
  | [] => (Config.randomByte s.draws, { s with draws := s.draws + 1 })

/-- `KEY[k]` for a key number up to 15 (R32). -/
def State.keyDown (s : State) (k : Nat) : Bool := s.keys[k]?.getD false

/-- `{ k in 0..15 | KEY[k] }` in rising order (43_io_timers_random.md R172). -/
def State.pressedKeys (s : State) : List Nat := (List.range 16).filter (fun k => s.keyDown k)

/-- `choose(P)` for the set whose first element is `k` (43_io_timers_random.md R172): the one element, or a free choice among them. -/
def State.chooseKey (s : State) (k : Nat) : List Nat → Nat
  | [] => k
  | k' :: ks => (k :: k' :: ks).getD (Config.keyChoice s.draws % (k :: k' :: ks).length) k

/-- One more free value has been used. -/
def State.useDraw (s : State) : State := { s with draws := s.draws + 1 }

/-- The pending commands replaced. -/
def State.setQueue (s : State) (cs : List Command) : State := { s with queue := cs }

/-! ### The run loop's schedule of steps and ticks -/

/-- One more instruction step of the round. -/
def Schedule.countStep (c : Schedule) : Schedule := { c with steps := c.steps + 1 }

/-- One more tick of the round; the last one begins the next round. -/
def Schedule.countTick (c : Schedule) : Schedule :=
  if c.ticks < Config.ticksBeforeStep c.round then { c with ticks := c.ticks + 1 }
  else { round := c.round + 1, steps := 0, ticks := 0 }

/-- The round has had its steps. Its first step comes before its first tick. -/
def Schedule.tickDue (c : Schedule) : Bool :=
  match c.steps with
  | 0 => false
  | k + 1 => Config.stepsBeforeTick c.round ≤ k

/-- Where no command is pending, the tick is the next to move: only in mode `loaded` (60_exceptions.md R219, R220). -/
def State.tickIsNext (s : State) : Bool :=
  match s.mode with
  | .idle => false
  | .loaded => s.schedule.tickDue

/-- The schedule replaced. -/
def State.setSchedule (s : State) (c : Schedule) : State := { s with schedule := c }

end Sys2Proof.Machine
end

