-- ==== Sys2Proof/Machine/Flags.lean ====
section
/-! DEFINITION. Every computation of VF, and the order in which a result and its flag are written (40_alu.md R100). -/

namespace Sys2Proof.Machine

/-- A flag value: 1 or 0. -/
def flagByte (c : Bool) : Byte := if c then 1 else 0

/-- Carry out: the true sum exceeds 255 (40_alu.md R107, D11). -/
def carryFlag (a b : Byte) : Byte := flagByte (255 < a.toNat + b.toNat)

/-- Borrow out of `a - b`: 1 when it underflows, strictly (40_alu.md R108; C1, D10, D11). -/
def borrowFlag (a b : Byte) : Byte := flagByte (a.toNat < b.toNat)

/-- The bit a right shift moves out: bit 0 (40_alu.md R110). -/
def shiftedOutRight (a : Byte) : Byte := a &&& 1

/-- The bit a left shift moves out: bit 7 (40_alu.md R111). -/
def shiftedOutLeft (a : Byte) : Byte := (a >>> 7) &&& 1

/-- `WriteResultAndFlag(x, r, f)` (40_alu.md R100): `V[x] <- r mod 256` and `VF <- f` in the order `VF_WRITE_ORDER` gives. -/
def State.writeResultAndFlag (s : State) (x : Nibble) (r : Nat) (f : Byte) : State :=
  match s.cfg.vfWriteOrder with
  | .flagLast => (s.setV x (BitVec.ofNat 8 r)).setV flagIndex f
  | .resultLast => (s.setV flagIndex f).setV x (BitVec.ofNat 8 r)

/-- What `or`, `and`, `xor` write: the result, and VF <- 0 only if `LOGIC_RESETS_VF` (40_alu.md R104-R106). -/
def State.writeLogic (s : State) (x : Nibble) (r : Byte) : State :=
  if s.cfg.logicResetsVf then s.writeResultAndFlag x r.toNat 0 else s.setV x r

/-- VF after `draw` (42_display.md R161). -/
def collisionFlag (c : Bool) : Byte := flagByte c

end Sys2Proof.Machine
end

