-- ==== Sys2Proof/Machine/Operands.lean ====
section
/-! DEFINITION. Every operand form: immediates widened, the register pair, the shift source, the address in I, the key
number, jump targets (30_encoding.md R73, 44_index_memory.md R190). -/

namespace Sys2Proof.Machine

/-- `zext_16(nnn)` (30_encoding.md R73). -/
def addressOperand (nnn : Addr12) : Word := nnn.setWidth 16

/-- `nnn + V[0]`, computed on naturals, stored mod 65536 (41_control_flow.md R134, D27). -/
def State.indexedTarget (s : State) (nnn : Addr12) : Word :=
  BitVec.ofNat 16 (nnn.toNat + (s.getV 0).toNat)

/-- The source of a shift: `V[x]`, or `V[y]` if `SHIFT_SOURCE = vy` (40_alu.md R110). -/
def State.shiftOperand (s : State) (x y : Nibble) : Byte :=
  match s.cfg.shiftSource with
  | .vx => s.getV x
  | .vy => s.getV y

/-- The address in I, as a natural: the k-th byte of an access is at this plus k, without wrap
(44_index_memory.md R190). -/
def State.indexAddress (s : State) : Nat := s.i.toNat

/-- `FONT_BASE + FONT_STRIDE * (V[x] & 0x0F)` (44_index_memory.md R193). -/
def State.glyphAddress (s : State) (x : Nibble) : Word :=
  BitVec.ofNat 16 (fontBase + s.cfg.fontStride * (s.getV x &&& 0x0F).toNat)

/-- What `stm` and `ldm` leave in I (44_index_memory.md R195, R196). -/
def State.indexAfterTransfer (s : State) (x : Nibble) : Word :=
  match s.cfg.loadStoreMode with
  | .unchanged => s.i
  | .plusXPlus1 => BitVec.ofNat 16 (s.i.toNat + x.toNat + 1)
  | .plusX => BitVec.ofNat 16 (s.i.toNat + x.toNat)

/-- The key number in `V[x]`, at most 15, or the fault (60_exceptions.md R215). -/
def State.withKeyOperand (s : State) (x : Nibble) (use : Nat → Result) : Result :=
  if 15 < (s.getV x).toNat then raise (.keyOutOfRange (s.getV x)) else use (s.getV x).toNat

/-- Hundreds, tens and ones of a byte (44_index_memory.md R194, D17). -/
def decimalDigits (b : Byte) : List Byte :=
  [BitVec.ofNat 8 (b.toNat / 100), BitVec.ofNat 8 (b.toNat / 10 % 10), BitVec.ofNat 8 (b.toNat % 10)]

end Sys2Proof.Machine
end

