-- ==== Sys2Proof/Machine/Alu.lean ====
section
/-! DEFINITION. The ALU and register-move instructions (40_alu.md). Operands are read before any register is written
(R100, D6); none of them can fault; each ends with `ip <- a + 2`. -/

namespace Sys2Proof.Machine

/-- R101: `V[x] <- kk`. -/
def execLi (x : Nibble) (kk : Byte) (s : State) : Result :=
  .next (s.setV x kk).advance

/-- R102: 8-bit wrapping add of an immediate; VF only if `ADDI_SETS_VF`. -/
def execAddi (x : Nibble) (kk : Byte) (s : State) : Result :=
  let sum := (s.getV x).toNat + kk.toNat
  .next (if s.cfg.addiSetsVf then s.writeResultAndFlag x sum (carryFlag (s.getV x) kk)
    else s.setV x (BitVec.ofNat 8 sum)).advance

/-- R103: `V[x] <- V[y]`. -/
def execMov (x y : Nibble) (s : State) : Result :=
  .next (s.setV x (s.getV y)).advance

/-- R104: bitwise or. -/
def execOr (x y : Nibble) (s : State) : Result :=
  .next (s.writeLogic x (s.getV x ||| s.getV y)).advance

/-- R105: bitwise and. -/
def execAnd (x y : Nibble) (s : State) : Result :=
  .next (s.writeLogic x (s.getV x &&& s.getV y)).advance

/-- R106: bitwise exclusive or. -/
def execXor (x y : Nibble) (s : State) : Result :=
  .next (s.writeLogic x (s.getV x ^^^ s.getV y)).advance

/-- R107: add with carry out. -/
def execAdd (x y : Nibble) (s : State) : Result :=
  .next (s.writeResultAndFlag x ((s.getV x).toNat + (s.getV y).toNat) (carryFlag (s.getV x) (s.getV y))).advance

/-- `(a - b) mod 256` of the integer difference (R108). -/
def differenceByte (a b : Byte) : Nat := (((a.toNat : Int) - (b.toNat : Int)) % 256).toNat

/-- R108: `V[x] <- V[x] - V[y]` with borrow out. -/
def execSub (x y : Nibble) (s : State) : Result :=
  .next (s.writeResultAndFlag x (differenceByte (s.getV x) (s.getV y)) (borrowFlag (s.getV x) (s.getV y))).advance

/-- R109: `V[x] <- V[y] - V[x]` with borrow out. -/
def execSubn (x y : Nibble) (s : State) : Result :=
  .next (s.writeResultAndFlag x (differenceByte (s.getV y) (s.getV x)) (borrowFlag (s.getV y) (s.getV x))).advance

/-- R110: logical shift right by one. -/
def execShr (x y : Nibble) (s : State) : Result :=
  let a := s.shiftOperand x y
  .next (s.writeResultAndFlag x (a.toNat >>> 1) (shiftedOutRight a)).advance

/-- R111: logical shift left by one, the result mod 256. -/
def execShl (x y : Nibble) (s : State) : Result :=
  let a := s.shiftOperand x y
  .next (s.writeResultAndFlag x (a.toNat <<< 1) (shiftedOutLeft a)).advance

end Sys2Proof.Machine
end

