-- ==== Sys2Proof/Machine/Control.lean ====
section
/-! DEFINITION. Program counter and control flow (41_control_flow.md). Targets are not checked when they are written;
no instruction here writes V or memory (R130). -/

namespace Sys2Proof.Machine

/-- R132: a no-op. -/
def execSys (_nnn : Addr12) (s : State) : Result := .next s.advance

/-- R133: `ip <- nnn`. -/
def execJmp (nnn : Addr12) (s : State) : Result := .next (s.setIp (addressOperand nnn))

/-- R134: `ip <- nnn + V0`; a return address is pushed only if `JUMP_V0_PUSHES` (C5, D12). -/
def execJmpv0 (nnn : Addr12) (s : State) : Result :=
  if s.cfg.jumpV0Pushes then s.pushAndJump (s.indexedTarget nnn) else .next (s.setIp (s.indexedTarget nnn))

/-- R135: push `a + 2`, go to nnn. -/
def execCall (nnn : Addr12) (s : State) : Result := s.pushAndJump (addressOperand nnn)

/-- R136: pop into ip; on an empty stack `RET_EMPTY` decides (C6, D13). -/
def execRet (s : State) : Result :=
  match s.stack with
  | top :: rest => .next ((s.setStack rest).setIp top)
  | [] =>
    match s.cfg.retEmpty with
    | .stay => .next (s.setIp s.ip)
    | .advance => .next s.advance

/-- R137: skip if `V[x] = kk`. -/
def execSei (x : Nibble) (kk : Byte) (s : State) : Result := .next (s.skipIf (s.getV x == kk))

/-- R138: skip if `V[x] ≠ kk`. -/
def execSnei (x : Nibble) (kk : Byte) (s : State) : Result := .next (s.skipIf (s.getV x != kk))

/-- R139: skip if `V[x] = V[y]`. -/
def execSe (x y : Nibble) (s : State) : Result := .next (s.skipIf (s.getV x == s.getV y))

/-- R140: skip if `V[x] ≠ V[y]`. -/
def execSne (x y : Nibble) (s : State) : Result := .next (s.skipIf (s.getV x != s.getV y))

/-- R141: skip if key `V[x]` is pressed. -/
def execSkp (x : Nibble) (s : State) : Result :=
  s.withKeyOperand x (fun k => .next (s.skipIf (s.keyDown k)))

/-- R142: skip if key `V[x]` is not pressed. -/
def execSknp (x : Nibble) (s : State) : Result :=
  s.withKeyOperand x (fun k => .next (s.skipIf (!s.keyDown k)))

end Sys2Proof.Machine
end

