-- ==== Sys2Proof/Machine/Display.lean ====
section
/-! DEFINITION. The framebuffer instructions (42_display.md). -/

namespace Sys2Proof.Machine

/-- R160: every cell off, and a render request. -/
def execCls (s : State) : Result := .next (s.setFb Frame.blank).advance.requestRender

/-- One set sprite bit at (x, y): an on-screen pixel is inverted, and a pixel that was on is a collision; off the
screen nothing happens (R161). -/
def drawBit (x y : Nat) (acc : Frame × Bool) : Frame × Bool :=
  (acc.1.setPixel x y (!acc.1.pixel x y), acc.2 || acc.1.pixel x y)

/-- One sprite byte in row y from column x0, bit 7 leftmost: columns b, b + 1, ... of it (R161). -/
def drawRow (x0 y : Nat) (row : Byte) : List Nat → Frame × Bool → Frame × Bool
  | [], acc => acc
  | b :: bs, acc => drawRow x0 y row bs (if row.getLsbD (7 - b) then drawBit (x0 + b) y acc else acc)

/-- The sprite's rows from row y downwards (R161). -/
def drawRows (x0 : Nat) (y : Nat) : List Byte → Frame × Bool → Frame × Bool
  | [], acc => acc
  | row :: rows, acc => drawRows x0 (y + 1) rows (drawRow x0 y row (List.range 8) acc)

/-- R161: XOR the `n` sprite rows at I onto the framebuffer at column `V[x]`, row `V[y]`, without wrap; VF is the
collision; every sprite address is checked before anything is drawn. -/
def execDraw (x y n : Nibble) (s : State) : Result :=
  let drawn := drawRows (s.getV x).toNat (s.getV y).toNat (s.readBytes s.indexAddress n.toNat) (s.fb, false)
  guardRange s.indexAddress n.toNat
    (.next ((s.setFb drawn.1).setV flagIndex (collisionFlag drawn.2)).advance.requestRender)

end Sys2Proof.Machine
end

