-- ==== Sys2Proof/Machine/Index.lean ====
section
/-! DEFINITION. Index register and memory instructions (44_index_memory.md). Every address is checked before the first
write (R190, D24). -/

namespace Sys2Proof.Machine

/-- R191: `I <- nnn`. -/
def execLdi (nnn : Addr12) (s : State) : Result := .next (s.setI (addressOperand nnn)).advance

/-- R192: `I <- (I + V[x]) mod 65536`; VF is not written (D15). -/
def execIadd (x : Nibble) (s : State) : Result :=
  .next (s.setI (BitVec.ofNat 16 (s.i.toNat + (s.getV x).toNat))).advance

/-- R193: I points at the glyph of the low nibble of `V[x]`. -/
def execFont (x : Nibble) (s : State) : Result := .next (s.setI (s.glyphAddress x)).advance

/-- R194: hundreds, tens, ones of `V[x]` to I, I + 1, I + 2. -/
def execBcd (x : Nibble) (s : State) : Result :=
  guardRange s.indexAddress 3 (.next (s.writeBytes s.indexAddress (decimalDigits (s.getV x))).advance)

/-- R195: `V[0]..V[x]` to I, I + 1, ...; then I as `LOADSTORE_I_MODE` says. -/
def execStm (x : Nibble) (s : State) : Result :=
  guardRange s.indexAddress (x.toNat + 1)
    (.next ((s.writeBytes s.indexAddress (s.lowRegisters (x.toNat + 1))).setI (s.indexAfterTransfer x)).advance)

/-- R196: `V[0]..V[x]` from I, I + 1, ...; then I as `LOADSTORE_I_MODE` says. -/
def execLdm (x : Nibble) (s : State) : Result :=
  guardRange s.indexAddress (x.toNat + 1)
    (.next ((s.setRegistersFrom 0 (s.readBytes s.indexAddress (x.toNat + 1))).setI (s.indexAfterTransfer x)).advance)

end Sys2Proof.Machine
end

