-- ==== Sys2Proof/Machine/Io.lean ====
section
/-! DEFINITION. Random, timer and key-wait instructions (43_io_timers_random.md), and the tick (60_exceptions.md R219). -/

namespace Sys2Proof.Machine

/-- R170: `V[x] <- RandomByte() & kk`. -/
def execRnd (x : Nibble) (kk : Byte) (s : State) : Result :=
  let drawn := s.randomByte
  .next (drawn.2.setV x (drawn.1 &&& kk)).advance

/-- R171: `V[x] <- DT`. -/
def execGdt (x : Nibble) (s : State) : Result := .next (s.setV x s.dt).advance

/-- R172: with no key pressed ip stays and nothing else changes; otherwise `V[x]` takes one pressed key. -/
def execWkey (x : Nibble) (s : State) : Result :=
  match s.pressedKeys with
  | [] => .next (s.setIp s.ip)
  | k :: ks => .next (s.useDraw.setV x (BitVec.ofNat 8 (s.chooseKey k ks))).advance

/-- R173: `DT <- V[x]`. -/
def execSdt (x : Nibble) (s : State) : Result := .next (s.setDt (s.getV x)).advance

/-- R174: `ST <- V[x]`; only a tick raises the alert (D31). -/
def execSst (x : Nibble) (s : State) : Result := .next (s.setSt (s.getV x)).advance

/-- A timer counts down while it is nonzero (R219). -/
def countDown (t : Byte) : Byte := if t = 0 then 0 else t - 1

/-- R219: one firing of the 60 Hz timer, only in mode `loaded`; the alert is raised exactly when ST goes from 1 to 0. -/
def State.tick (s : State) : State :=
  match s.mode with
  | .idle => s
  | .loaded => { s with dt := countDown s.dt, st := countDown s.st, soundAlert := s.st == 1 }

end Sys2Proof.Machine
end

