-- ==== Sys2Proof/Machine/Fetch.lean ====
section
/-! DEFINITION. Fetch and decode of one instruction (30_encoding.md R80), and placing an instruction where it is fetched. -/

namespace Sys2Proof.Machine

/-- `MemRead(ip, 2)`: big-endian, any alignment, both addresses checked (20_memory.md R53, R54). -/
def State.fetchWord (s : State) : Except Fault Word :=
  match firstOutOfBounds s.ip.toNat 2 with
  | some a => .error (.outOfBounds a)
  | none => .ok (Word.ofBytes (s.readByte s.ip.toNat) (s.readByte (s.ip.toNat + 1)))

/-- The checks of a step before the instruction's own, in the order of 60_exceptions.md R216: mode, fetch address, catalog. -/
def State.fetchInstr (s : State) : Except Fault Instr :=
  match s.mode with
  | .idle => .error .notLoaded
  | .loaded =>
    match s.fetchWord with
    | .error f => .error f
    | .ok op =>
      match lookupByOpcode s.cfg.sysPresent op with
      | none => .error (.decodeError op)
      | some i => .ok i

/-- An address from which a whole instruction can be fetched: ip itself, or the entry point where ip is too high. -/
def State.fetchableIp (s : State) : Word :=
  if s.ip.toNat + 1 < memSize then s.ip else BitVec.ofNat 16 programBase

/-- The instruction with the low `nbits` bits of `w` as its word (bits above zero) stored big-endian where the next step
fetches it, in mode `loaded`, with no host command pending and the step next to move, so that the very next step runs it
(log entry 6). -/
def State.placeInstruction (s : State) (nbits w : Nat) : State :=
  let op : Word := BitVec.ofNat 16 (w % 2 ^ nbits)
  ({ s with mode := .loaded, ip := s.fetchableIp, queue := [], schedule := { s.schedule with steps := 0 } }).writeBytes s.fetchableIp.toNat [op.hiByte, op.loByte]

end Sys2Proof.Machine
end

