-- ==== Sys2Proof/Machine/Cycle.lean ====
section
/-! DEFINITION. One instruction step, the host's commands, and the worker queue that serialises them
(30_encoding.md R80; 10_state.md R39-R41; 60_exceptions.md R210-R226; 70_reset_and_hazards.md R230, R237). -/

namespace Sys2Proof.Machine

/-- R80: fetch, decode, execute. The render pulse is low unless this step's instruction raises it (R35). -/
def stepInstruction (s : State) : Result :=
  match s.fetchInstr with
  | .error f => raise f
  | .ok i => exec i s.lowerRender

/-- One transition of the run loop: the tick where it is next to move, otherwise one instruction step (R219, R220, R236). -/
def runLoopStep (s : State) : Result :=
  if s.tickIsNext then .next (s.tick.setSchedule s.schedule.countTick)
  else stepInstruction (s.setSchedule s.schedule.countStep)

/-- What the host is told of a command (R41, R210, R226). -/
inductive Reply where
  /-- Done: `ok`. -/
  | ok
  /-- The value `get-register` reads. -/
  | value (b : Byte)
  /-- The pixel `get-pixel` reads. -/
  | pixel (on : Bool)
  /-- The command is refused, with no state change (U20, U22). -/
  | refused
  /-- A step's fault outcome. -/
  | fault (f : Fault)
  /-- The spec does not say: the command reads, or a step runs in, a state that an `OutOfBounds` of a data access left
  unobservable (R212, D24). -/
  | unobservable
deriving DecidableEq, Repr

/-- The result of a command in a session. -/
inductive Performed where
  /-- The state after it and the reply. -/
  | done (s : State) (r : Reply)
  /-- A data access out of bounds: "a model must treat the state after an `OutOfBounds` of case (b) as unobservable"
  (R212, D24). Of `s`, the state before it, only what the machine does not write is still known: the parameters, the
  host's inputs and its queue. -/
  | lost (s : State) (f : Fault)
deriving DecidableEq, Repr

/-- `load(bytes)` (R230): refused above `MAX_PROGRAM_BYTES`, otherwise the whole machine state is made fresh. The host's
inputs (`keys`, `rand`, the queue) and the parameters are not part of it (R32). -/
def State.load (s : State) (bytes : List Byte) : Option State :=
  if s.cfg.maxProgramBytes.val < bytes.length then none
  else some (({ s with
    mode := .loaded
    v := Vector.replicate 16 0
    i := 0
    ip := BitVec.ofNat 16 programBase
    stack := []
    mem := []
    fb := Frame.blank
    dt := 0
    st := 0
    renderRequest := false
    soundAlert := false }).writeBytes programBase bytes)

/-- `set-register(index, value)`: refused for an index above 15 or a value above 255 (R39). -/
def State.hostSetRegister (s : State) (index value : Nat) : Option State :=
  if index ≤ 15 ∧ value ≤ 255 then some (s.setV (BitVec.ofNat 4 index) (BitVec.ofNat 8 value)) else none

/-- `get-register(index)`: refused for an index above 15 (R39). -/
def State.hostGetRegister (s : State) (index : Nat) : Option Byte :=
  if index ≤ 15 then some (s.getV (BitVec.ofNat 4 index)) else none

/-- `set-ip(addr)`: refused above 0xFFFF (R226). -/
def State.hostSetIp (s : State) (addr : Nat) : Option State :=
  if addr ≤ 0xFFFF then some (s.setIp (BitVec.ofNat 16 addr)) else none

/-- A command that is done or refused; a refusal changes nothing. -/
def doneOrRefused (s : State) (t : Option State) : Performed :=
  match t with
  | some t => .done t .ok
  | none => .done s .refused

/-- The step command in a session (R217): a fault of the fetch or decode, and one that is not of a data access, leaves
the state as it was (the render pulse low), and the host may go on. -/
def performStep (s : State) : Performed :=
  match s.fetchInstr with
  | .error f => .done s.lowerRender (.fault f)
  | .ok i =>
    match exec i s.lowerRender with
    | .next t => .done t .ok
    | .fault (.outOfBounds a) => .lost s (.outOfBounds a)
    | .fault f => .done s.lowerRender (.fault f)
    | .refused _ => .done s .refused

/-- One command of the host, performed wholly before the next (R41). -/
def perform (c : Command) (s : State) : Performed :=
  match c with
  | .step => performStep s
  | .tick => .done s.tick .ok
  | .load bytes => doneOrRefused s (s.load bytes)
  | .getRegister index =>
    match s.hostGetRegister index with
    | some b => .done s (.value b)
    | none => .done s .refused
  | .setRegister index value => doneOrRefused s (s.hostSetRegister index value)
  | .setIp addr => doneOrRefused s (s.hostSetIp addr)
  | .getPixel x y => .done s (.pixel (Frame.pixel s.fb x y))
  | .setPixel x y b => .done (s.setFb (Frame.setPixel s.fb x y b)) .ok
  | .setKeys keys => .done { s with keys := keys } .ok
  | .supplyRandom b => .done { s with rand := s.rand ++ [b] } .ok

/-- A performed command as the machine's next state; a refused command changes nothing and the machine goes on. -/
def Performed.toResult : Performed → Result
  | .done t _ => .next t
  | .lost _ f => raise f

/-- The next transition of the machine: the head of the worker queue, or the run loop's where the host has nothing
pending. A step that faults stops the run (R227). -/
def runNext (s : State) : Result :=
  match s.queue with
  | [] => runLoopStep s
  | .step :: cs => stepInstruction (s.setQueue cs)
  | c :: cs => (perform c (s.setQueue cs)).toResult

/-- What is known of the state in a session. -/
inductive Known where
  /-- All of it. -/
  | all (s : State)
  /-- After an `OutOfBounds` of a data access (R212): of `s` only the parameters, the host's inputs and the queue. -/
  | inputs (s : State)
deriving DecidableEq, Repr

/-- One command in a state that is unobservable but for the parameters and the host's inputs: an accepted `load` makes the
whole machine state fresh, so all of it is known again (R217, R226, R230); the inputs are the host's own, and a step voids
the draws supplied before it, since it may have used them; a command that is refused for its arguments is refused; of every other one the reply is what the spec says for any state, or unobservable. -/
def performUnobservable (c : Command) (s : State) : Reply × Known :=
  match c with
  | .step => (.unobservable, .inputs { s with rand := [] })
  | .tick => (.ok, .inputs s)
  | .load bytes =>
    match s.load bytes with
    | some t => (.ok, .all t)
    | none => (.refused, .inputs s)
  | .getRegister index => (if index ≤ 15 then .unobservable else .refused, .inputs s)
  | .setRegister index value => (if index ≤ 15 ∧ value ≤ 255 then .ok else .refused, .inputs s)
  | .setIp addr => (if addr ≤ 0xFFFF then .ok else .refused, .inputs s)
  | .getPixel x y => (if x < 64 ∧ y < 32 then .unobservable else .pixel false, .inputs s)
  | .setPixel _ _ _ => (.ok, .inputs s)
  | .setKeys keys => (.ok, .inputs { s with keys := keys })
  | .supplyRandom b => (.ok, .inputs { s with rand := s.rand ++ [b] })

/-- One command of a session, with its reply and what is known after it. -/
def performKnown (c : Command) : Known → Reply × Known
  | .all s =>
    match perform c s with
    | .done t r => (r, .all t)
    | .lost t f => (.fault f, .inputs t)
  | .inputs s => performUnobservable c s

/-- A session: commands performed one after another, with the replies in order (R217, R237). -/
def session : List Command → Known → List Reply × Known
  | [], k => ([], k)
  | c :: cs, k =>
    let after := performKnown c k
    let rest := session cs after.2
    (after.1 :: rest.1, rest.2)

end Sys2Proof.Machine
end

