-- ==== Sys2Proof/Machine/Step.lean ====
section
/-! DEFINITION. The machine's one step function, and the state whose next step runs a given instruction. -/

namespace Sys2Proof.Machine

/-- One transition: a pending host command, or one instruction (Machine/Cycle.lean). -/
def step (s : State) : Host.Outcome State Fault Refusal := runNext s

/-- `s` with an instruction stored where `step` fetches it (Machine/Fetch.lean). -/
def State.withFetchWord (s : State) (nbits w : Nat) : State := s.placeInstruction nbits w

end Sys2Proof.Machine
end

