-- ==== Sys2Proof/Machine/Reach.lean ====
section
/-! DEFINITION. The possible next ip values of an instruction (30_encoding.md R86): informative, not asked by the step. -/

namespace Sys2Proof.Machine

/-- The set of possible next addresses of an instruction at address `a` that is known statically (R86): empty for `ret`
and `jmpv0`, the target for `jmp` and `call`, fall-through and skip target for the skips, `a + 2` for every other one. -/
def possibleNext (i : Instr) (a : Word) : List Word :=
  match i with
  | .ret => []
  | .jmpv0 _ => []
  | .jmp nnn => [nnn.setWidth 16]
  | .call nnn => [nnn.setWidth 16]
  | .sei _ _ => [a + 2, a + 4]
  | .snei _ _ => [a + 2, a + 4]
  | .se _ _ => [a + 2, a + 4]
  | .sne _ _ => [a + 2, a + 4]
  | .skp _ => [a + 2, a + 4]
  | .sknp _ => [a + 2, a + 4]
  | .cls => [a + 2]
  | .sys _ => [a + 2]
  | .li _ _ => [a + 2]
  | .addi _ _ => [a + 2]
  | .mov _ _ => [a + 2]
  | .or _ _ => [a + 2]
  | .and _ _ => [a + 2]
  | .xor _ _ => [a + 2]
  | .add _ _ => [a + 2]
  | .sub _ _ => [a + 2]
  | .shr _ _ => [a + 2]
  | .subn _ _ => [a + 2]
  | .shl _ _ => [a + 2]
  | .ldi _ => [a + 2]
  | .rnd _ _ => [a + 2]
  | .draw _ _ _ => [a + 2]
  | .gdt _ => [a + 2]
  | .wkey _ => [a + 2]
  | .sdt _ => [a + 2]
  | .sst _ => [a + 2]
  | .iadd _ => [a + 2]
  | .font _ => [a + 2]
  | .bcd _ => [a + 2]
  | .stm _ => [a + 2]
  | .ldm _ => [a + 2]

end Sys2Proof.Machine
end

