-- ==== Sys2Proof/Safety.lean ====
section
/-! DEFINITION. What claims are stated in: the parts of the state and which of them a step keeps, the machine's invariant,
and how a run ends (60_exceptions.md R220, R224, R227). -/

namespace Sys2Proof.Machine

/-- The parts of the state, each with the reading of it that a frame claim speaks about. -/
inductive Part where
  | cfg
  | mode
  | registers
  | index
  | ip
  | stack
  | memory
  | screen
  | delayTimer
  | soundTimer
  | keys
  | renderRequest
  | soundAlert
  | randomInput
  | freeValues
  | queue
  | schedule
deriving DecidableEq, Repr

/-- Part `p` reads the same in `t` as in `s`: every register, every byte of memory, every pixel, every key. -/
def Part.kept (p : Part) (s t : State) : Prop :=
  match p with
  | .cfg => t.cfg = s.cfg
  | .mode => t.mode = s.mode
  | .registers => ∀ r, t.getV r = s.getV r
  | .index => t.i = s.i
  | .ip => t.ip = s.ip
  | .stack => t.stack = s.stack
  | .memory => ∀ a, t.readByte a = s.readByte a
  | .screen => ∀ x y, Frame.pixel t.fb x y = Frame.pixel s.fb x y
  | .delayTimer => t.dt = s.dt
  | .soundTimer => t.st = s.st
  | .keys => t.keys = s.keys
  | .renderRequest => t.renderRequest = s.renderRequest
  | .soundAlert => t.soundAlert = s.soundAlert
  | .randomInput => t.rand = s.rand
  | .freeValues => t.draws = s.draws
  | .queue => t.queue = s.queue
  | .schedule => t.schedule = s.schedule

/-- Nothing changed from `s` to `t` but the parts named. -/
def OnlyChanges (parts : List Part) (s t : State) : Prop := ∀ p, p ∉ parts → p.kept s t

/-- Which registers an instruction writes: the table of 10_state.md R24. -/
def writesRegister (cfg : Config) (i : Instr) (r : Nibble) : Bool :=
  match i with
  | .cls => false
  | .ret => false
  | .sys _ => false
  | .jmp _ => false
  | .call _ => false
  | .sei _ _ => false
  | .snei _ _ => false
  | .se _ _ => false
  | .li x _ => r == x
  | .addi x _ => r == x || (cfg.addiSetsVf && r == flagIndex)
  | .mov x _ => r == x
  | .or x _ => r == x || (cfg.logicResetsVf && r == flagIndex)
  | .and x _ => r == x || (cfg.logicResetsVf && r == flagIndex)
  | .xor x _ => r == x || (cfg.logicResetsVf && r == flagIndex)
  | .add x _ => r == x || r == flagIndex
  | .sub x _ => r == x || r == flagIndex
  | .shr x _ => r == x || r == flagIndex
  | .subn x _ => r == x || r == flagIndex
  | .shl x _ => r == x || r == flagIndex
  | .sne _ _ => false
  | .ldi _ => false
  | .jmpv0 _ => false
  | .rnd x _ => r == x
  | .draw _ _ _ => r == flagIndex
  | .skp _ => false
  | .sknp _ => false
  | .gdt x => r == x
  | .wkey x => r == x
  | .sdt _ => false
  | .sst _ => false
  | .iadd _ => false
  | .font _ => false
  | .bcd _ => false
  | .stm _ => false
  | .ldm x => r.toNat ≤ x.toNat

/-- Which parts of the state an instruction may write (10_state.md R24, R25, R28, R30-R32, R35; 20_memory.md R50). -/
def partsWritten (cfg : Config) (i : Instr) : List Part :=
  match i with
  | .cls => [.screen, .renderRequest, .ip]
  | .ret => [.stack, .ip]
  | .sys _ => [.ip]
  | .jmp _ => [.ip]
  | .call _ => [.stack, .ip]
  | .sei _ _ => [.ip]
  | .snei _ _ => [.ip]
  | .se _ _ => [.ip]
  | .li _ _ => [.registers, .ip]
  | .addi _ _ => [.registers, .ip]
  | .mov _ _ => [.registers, .ip]
  | .or _ _ => [.registers, .ip]
  | .and _ _ => [.registers, .ip]
  | .xor _ _ => [.registers, .ip]
  | .add _ _ => [.registers, .ip]
  | .sub _ _ => [.registers, .ip]
  | .shr _ _ => [.registers, .ip]
  | .subn _ _ => [.registers, .ip]
  | .shl _ _ => [.registers, .ip]
  | .sne _ _ => [.ip]
  | .ldi _ => [.index, .ip]
  | .jmpv0 _ => if cfg.jumpV0Pushes then [.stack, .ip] else [.ip]
  | .rnd _ _ => [.registers, .randomInput, .freeValues, .ip]
  | .draw _ _ _ => [.registers, .screen, .renderRequest, .ip]
  | .skp _ => [.ip]
  | .sknp _ => [.ip]
  | .gdt _ => [.registers, .ip]
  | .wkey _ => [.registers, .freeValues, .ip]
  | .sdt _ => [.delayTimer, .ip]
  | .sst _ => [.soundTimer, .ip]
  | .iadd _ => [.index, .ip]
  | .font _ => [.index, .ip]
  | .bcd _ => [.memory, .ip]
  | .stm _ => if cfg.loadStoreMode = .unchanged then [.memory, .ip] else [.memory, .index, .ip]
  | .ldm _ => if cfg.loadStoreMode = .unchanged then [.registers, .ip] else [.registers, .index, .ip]

/-- The registers after a result `r` for `V[x]` and a flag `f` for VF (40_alu.md R100): where x is VF itself, the order
of the two writes decides. -/
def ResultAndFlag (x : Nibble) (r f : Byte) (s t : State) : Prop :=
  ∀ q, t.getV q =
    if q = x ∧ q = flagIndex then (match s.cfg.vfWriteOrder with | .flagLast => f | .resultLast => r)
    else if q = x then r
    else if q = flagIndex then f
    else s.getV q

/-- The registers after a single write of `b` to `V[x]`. -/
def OneRegister (x : Nibble) (b : Byte) (s t : State) : Prop := ∀ q, t.getV q = if q = x then b else s.getV q

/-- A push has room: the stack is unbounded, or not yet at its depth (R28, R214). -/
def State.hasRoom (s : State) : Prop := ∀ depth, s.cfg.stackDepth = some depth → s.stack.length < depth

/-- The sprite of `draw vx, vy, n` has a set bit at column px, row py: bit 7 - (px - V[x]) of the byte at
I + (py - V[y]) (42_display.md R161). -/
def SpriteBit (x y n : Nibble) (s : State) (px py : Nat) : Prop :=
  (s.getV x).toNat ≤ px ∧ px < (s.getV x).toNat + 8 ∧
    (s.getV y).toNat ≤ py ∧ py < (s.getV y).toNat + n.toNat ∧
    (s.readByte (s.i.toNat + (py - (s.getV y).toNat))).getLsbD (7 - (px - (s.getV x).toNat)) = true

/-- A bounded stack holds at most `STACK_DEPTH` return addresses (R214). -/
def State.stackFits (s : State) : Bool :=
  match s.cfg.stackDepth with
  | none => true
  | some depth => s.stack.length ≤ depth

/-- Every return address is that of a fetched instruction plus 2, so at most 4096 (30_encoding.md R80, R81). -/
def State.returnAddressesFit (s : State) : Bool := s.stack.all (fun w => w.toNat ≤ memSize)

/-- The invariant every step keeps: memory is in canonical form inside the address space; every return address is that of
a fetched instruction plus 2, so at most 4096 (30_encoding.md R81); a bounded stack is within its depth. -/
abbrev State.Inv (s : State) : Prop :=
  Memory.wf s.cfg.font s.mem ∧ s.returnAddressesFit = true ∧ s.stackFits = true

/-- The state holds a self-jump at ip: `0x1000 | ip` (R227, "a run ends"). -/
def State.atSelfJump (s : State) : Prop := s.mode = .loaded ∧ s.fetchWord = .ok (0x1000 ||| s.ip)

/-- Ticks keep coming in the run from `s` (R220, weak fairness): however far it has got, there is a later point where it
has stopped or where the tick is next to move. -/
def State.TicksKeepComing (s : State) : Prop :=
  ∀ n t, core.run n s = .next t → ∃ m, n ≤ m ∧
    ((∃ f, core.run m s = .fault f) ∨ ∃ u, core.run m s = .next u ∧ u.queue = [] ∧ u.tickIsNext = true)

/-- Only finitely many ticks fall between two steps of the run from `s` (R220): however far it has got, there is a later
point where it has stopped or where an instruction step is next. -/
def State.StepsKeepComing (s : State) : Prop :=
  ∀ n t, core.run n s = .next t → ∃ m, n ≤ m ∧
    ((∃ f, core.run m s = .fault f) ∨ ∃ u, core.run m s = .next u ∧ u.queue = [] ∧ u.tickIsNext = false)

/-- A run from `s` ends: after some number of `ok` steps it is at a self-jump (R227). -/
def State.Ends (s : State) : Prop := ∃ k t, core.run k s = .next t ∧ State.atSelfJump t

/-- A run from `s` faults: some step has an outcome that is not `ok` (R227). -/
def State.Faults (s : State) : Prop := ∃ k f, core.run k s = .fault f

/-- A run from `s` hangs: it neither ends nor faults (R227). -/
def State.Hangs (s : State) : Prop := ¬ s.Ends ∧ ¬ s.Faults

/-- A run loop that looks at the host's stop flag between steps (R224, R237): one entry a step, `true` stops it. -/
def runLoop : List Bool → State → Host.Outcome State Fault Refusal
  | [], s => .next s
  | true :: _, s => .next s
  | false :: flags, s =>
    match step s with
    | .next t => runLoop flags t
    | .fault f => .fault f
    | .refused r => .refused r

end Sys2Proof.Machine
end

