-- ==== Sys2Proof/Certificates/Slice0/Obligations.lean ====
section
/-! DEFINITION. The statements for the provers, from the spec's rules. Where a statement rests on a decision the spec marks
as its own (92_eei_decisions.md) or on the model's choice, its entry in OBLIGATIONS.json is `derived` and says so. -/

open Sys2Proof Sys2Proof.Machine

/-- Words of the vectors of 95_test_vectors.md, one or more of every layout and of every family, decode to the
instructions and operands the vectors give, and three undecodable ones to none, with SYS_PRESENT true.
[95_test_vectors.md sections 2.1, 2.4 and 2.5 (words); 30_encoding.md section 4 (opcode map);
92_eei_decisions.md D1, D3] -/
def Obligations.SpecWordsDecodeAsListed : Prop :=
  lookupByOpcode true 0x0000 = some (.sys 0x000) ∧ lookupByOpcode true 0x00E0 = some .cls ∧
  lookupByOpcode true 0x00EE = some .ret ∧ lookupByOpcode true 0x00E1 = some (.sys 0x0E1) ∧
  lookupByOpcode true 0x1ABC = some (.jmp 0xABC) ∧ lookupByOpcode true 0x5120 = some (.se 1 2) ∧
  lookupByOpcode true 0x6A7F = some (.li 10 0x7F) ∧ lookupByOpcode true 0x80FE = some (.shl 0 15) ∧
  lookupByOpcode true 0xE29E = some (.skp 2) ∧ lookupByOpcode true 0xF165 = some (.ldm 1) ∧
  lookupByOpcode true 0xD125 = some (.draw 1 2 5) ∧ lookupByOpcode true 0xC30F = some (.rnd 3 0x0F) ∧
  lookupByOpcode true 0x5121 = none ∧ lookupByOpcode true 0x800D = none ∧ lookupByOpcode true 0xFFFF = none

/-- For each of the 35 patterns of the opcode map and every value of its operand fields, the word with those fields
at the positions of the pattern decodes to that instruction with those operands, whatever SYS_PRESENT is (sys:
with SYS_PRESENT true and nnn other than 0x0E0 and 0x0EE). [30_encoding.md sections 1, 2 and 4 (layouts, operand
assembly, opcode map); 92_eei_decisions.md D1, D3, D4] -/
def Obligations.EveryCatalogPatternDecodes : Prop :=
  (∀ p, lookupByOpcode p 0x00E0 = some .cls) ∧
  (∀ p, lookupByOpcode p 0x00EE = some .ret) ∧
  (∀ nnn : Addr12, nnn ≠ 0x0E0 → nnn ≠ 0x0EE → lookupByOpcode true (0x0#4 ++ nnn) = some (.sys nnn)) ∧
  (∀ p (nnn : Addr12), lookupByOpcode p (0x1#4 ++ nnn) = some (.jmp nnn)) ∧
  (∀ p (nnn : Addr12), lookupByOpcode p (0x2#4 ++ nnn) = some (.call nnn)) ∧
  (∀ p (x : Nibble) (kk : Byte), lookupByOpcode p (0x3#4 ++ x ++ kk) = some (.sei x kk)) ∧
  (∀ p (x : Nibble) (kk : Byte), lookupByOpcode p (0x4#4 ++ x ++ kk) = some (.snei x kk)) ∧
  (∀ p (x y : Nibble), lookupByOpcode p (0x5#4 ++ x ++ y ++ 0x0#4) = some (.se x y)) ∧
  (∀ p (x : Nibble) (kk : Byte), lookupByOpcode p (0x6#4 ++ x ++ kk) = some (.li x kk)) ∧
  (∀ p (x : Nibble) (kk : Byte), lookupByOpcode p (0x7#4 ++ x ++ kk) = some (.addi x kk)) ∧
  (∀ p (x y : Nibble), lookupByOpcode p (0x8#4 ++ x ++ y ++ 0x0#4) = some (.mov x y)) ∧
  (∀ p (x y : Nibble), lookupByOpcode p (0x8#4 ++ x ++ y ++ 0x1#4) = some (.or x y)) ∧
  (∀ p (x y : Nibble), lookupByOpcode p (0x8#4 ++ x ++ y ++ 0x2#4) = some (.and x y)) ∧
  (∀ p (x y : Nibble), lookupByOpcode p (0x8#4 ++ x ++ y ++ 0x3#4) = some (.xor x y)) ∧
  (∀ p (x y : Nibble), lookupByOpcode p (0x8#4 ++ x ++ y ++ 0x4#4) = some (.add x y)) ∧
  (∀ p (x y : Nibble), lookupByOpcode p (0x8#4 ++ x ++ y ++ 0x5#4) = some (.sub x y)) ∧
  (∀ p (x y : Nibble), lookupByOpcode p (0x8#4 ++ x ++ y ++ 0x6#4) = some (.shr x y)) ∧
  (∀ p (x y : Nibble), lookupByOpcode p (0x8#4 ++ x ++ y ++ 0x7#4) = some (.subn x y)) ∧
  (∀ p (x y : Nibble), lookupByOpcode p (0x8#4 ++ x ++ y ++ 0xE#4) = some (.shl x y)) ∧
  (∀ p (x y : Nibble), lookupByOpcode p (0x9#4 ++ x ++ y ++ 0x0#4) = some (.sne x y)) ∧
  (∀ p (nnn : Addr12), lookupByOpcode p (0xA#4 ++ nnn) = some (.ldi nnn)) ∧
  (∀ p (nnn : Addr12), lookupByOpcode p (0xB#4 ++ nnn) = some (.jmpv0 nnn)) ∧
  (∀ p (x : Nibble) (kk : Byte), lookupByOpcode p (0xC#4 ++ x ++ kk) = some (.rnd x kk)) ∧
  (∀ p (x y n : Nibble), lookupByOpcode p (0xD#4 ++ x ++ y ++ n) = some (.draw x y n)) ∧
  (∀ p (x : Nibble), lookupByOpcode p (0xE#4 ++ x ++ 0x9E#8) = some (.skp x)) ∧
  (∀ p (x : Nibble), lookupByOpcode p (0xE#4 ++ x ++ 0xA1#8) = some (.sknp x)) ∧
  (∀ p (x : Nibble), lookupByOpcode p (0xF#4 ++ x ++ 0x07#8) = some (.gdt x)) ∧
  (∀ p (x : Nibble), lookupByOpcode p (0xF#4 ++ x ++ 0x0A#8) = some (.wkey x)) ∧
  (∀ p (x : Nibble), lookupByOpcode p (0xF#4 ++ x ++ 0x15#8) = some (.sdt x)) ∧
  (∀ p (x : Nibble), lookupByOpcode p (0xF#4 ++ x ++ 0x18#8) = some (.sst x)) ∧
  (∀ p (x : Nibble), lookupByOpcode p (0xF#4 ++ x ++ 0x1E#8) = some (.iadd x)) ∧
  (∀ p (x : Nibble), lookupByOpcode p (0xF#4 ++ x ++ 0x29#8) = some (.font x)) ∧
  (∀ p (x : Nibble), lookupByOpcode p (0xF#4 ++ x ++ 0x33#8) = some (.bcd x)) ∧
  (∀ p (x : Nibble), lookupByOpcode p (0xF#4 ++ x ++ 0x55#8) = some (.stm x)) ∧
  (∀ p (x : Nibble), lookupByOpcode p (0xF#4 ++ x ++ 0x65#8) = some (.ldm x))

/-- For every well-formed instruction i and every bytes after it, the decoder reads i from encode i's two bytes and
leaves the bytes after it. [30_encoding.md sections 3 and 7 (decode, encoding); 30_encoding.md section 1
(layouts, masks); 92_eei_decisions.md D1, D3] -/
def Obligations.DecodeOfEncodeIsTheInstruction : Prop :=
  ∀ (p : Bool) (i : Instr) (rest : List Byte), i.wf p = true → decode p (encodeBytes i ++ rest) = .ok (i, rest)

/-- For every word w and either SYS_PRESENT, if w decodes to i then i is well formed and encode i = w: every
decodable word round-trips exactly. [30_encoding.md section 7 (the round-trip law); 93_implementation_defined.md
U5; 92_eei_decisions.md D3] -/
def Obligations.EncodeOfDecodeIsTheWord : Prop :=
  ∀ (p : Bool) (w : Word) (i : Instr), lookupByOpcode p w = some i → i.wf p = true ∧ encode i = w

/-- A word has no catalog entry iff it is 5XYn or 9XYn with n not 0, 8XYn with n in 8..D or F, EXkk with kk not 9E
or A1, FXkk with kk not one of the nine, or, with SYS_PRESENT false, 0NNN other than 00E0 and 00EE.
[30_encoding.md section 5 (illegal encodings), an inference the spec marks as derived; 92_eei_decisions.md D3] -/
def Obligations.UndecodableWordsAreTheListedOnes : Prop :=
  ∀ (p : Bool) (w : Word), lookupByOpcode p w = none ↔
    ((w.toNat / 4096 = 5 ∨ w.toNat / 4096 = 9) ∧ w.toNat % 16 ≠ 0) ∨
    (w.toNat / 4096 = 8 ∧ w.toNat % 16 ∈ [0x8, 0x9, 0xA, 0xB, 0xC, 0xD, 0xF]) ∨
    (w.toNat / 4096 = 14 ∧ w.toNat % 256 ∉ [0x9E, 0xA1]) ∨
    (w.toNat / 4096 = 15 ∧ w.toNat % 256 ∉ [0x07, 0x0A, 0x15, 0x18, 0x1E, 0x29, 0x33, 0x55, 0x65]) ∨
    (p = false ∧ w.toNat / 4096 = 0 ∧ w ≠ 0x00E0 ∧ w ≠ 0x00EE)

/-- lookup_by_opcode answers some i exactly where a catalog entry m matches the word, every matching entry's
specificity is at most m's, and i is m with the operands its layout extracts; it answers none exactly where no
entry matches. [R75] -/
def Obligations.LookupTakesTheMostSpecificMatch : Prop :=
  ∀ (p : Bool) (w : Word),
    (∀ i, lookupByOpcode p w = some i ↔
      ∃ m ∈ catalog p, w &&& m.mask = m.fixed ∧ i = m.build w ∧
        ∀ n ∈ catalog p, w &&& n.mask = n.fixed → n.specificity ≤ m.specificity) ∧
    (lookupByOpcode p w = none ↔ ∀ n ∈ catalog p, w &&& n.mask ≠ n.fixed)

/-- The decoder accepts exactly two bytes, the first the high byte of the opcode, and leaves the rest; fewer than
two bytes are no instruction; an instruction is encoded in exactly two bytes; and the fetch of a step takes the
byte at ip as the high byte of the opcode and the byte at ip + 1 as the low one. [R70] -/
def Obligations.EveryInstructionIsTwoBigEndianBytes : Prop :=
  (∀ (p : Bool) (bytes : List Byte) (i : Instr) (rest : List Byte), decode p bytes = .ok (i, rest) ↔
    ∃ hi lo : Byte, bytes = hi :: lo :: rest ∧ lookupByOpcode p (hi ++ lo) = some i) ∧
  (∀ (p : Bool) (bytes : List Byte), bytes.length < 2 → decode p bytes = .error .tooShort) ∧
  (∀ i : Instr, ∃ hi lo : Byte, encodeBytes i = [hi, lo] ∧ hi ++ lo = encode i) ∧
  (∀ s : State, s.ip.toNat ≤ 4094 →
    s.fetchWord = .ok (s.readByte s.ip.toNat ++ s.readByte (s.ip.toNat + 1)))

/-- In mode loaded, with ip at most 4094 and the big-endian word at ip decoding to i: with no host command pending
and no tick next to move, step is exec of i on the state with the render pulse lowered and one more step counted
in the schedule; with a step command at the head of the queue, exec of i on the state with the render pulse
lowered and that command taken off. The model's own in this: that a step lowers the pulse before it executes
(log entry 8, DEDUCED from 10_state.md section 5), that host commands are held in a queue (log entry 4, DESIGN
CHOICE), and the schedule of steps and ticks (log entry 16, DESIGN CHOICE). [30_encoding.md section 6 (the
step); 20_memory.md section 2 (byte order); 10_state.md section 5 (render_request); 60_exceptions.md section 3
(tick scheduling); 92_eei_decisions.md D25, D31] -/
def Obligations.StepRunsTheDecodedInstruction : Prop :=
  ∀ (s : State) (i : Instr), s.mode = .loaded → s.ip.toNat ≤ 4094 →
    lookupByOpcode s.cfg.sysPresent (s.readByte s.ip.toNat ++ s.readByte (s.ip.toNat + 1)) = some i →
    (s.queue = [] → s.tickIsNext = false →
      step s = exec i { s with renderRequest := false, schedule := s.schedule.countStep }) ∧
    (∀ cs, s.queue = .step :: cs → step s = exec i { s with queue := cs, renderRequest := false })

/-- With no host command pending and no tick next to move (in mode idle none ever is): in mode idle a step is
NotLoaded whatever else holds; loaded with ip above 4095 it is OutOfBounds(ip); loaded with ip = 4095 it is
OutOfBounds(4096); loaded and fetchable with a word no entry matches it is DecodeError(word). The queue and the
schedule are the model's choice (log entries 4 and 16). [60_exceptions.md section 2 (priority), an inference the
spec marks as derived; 30_encoding.md section 6; 92_eei_decisions.md D25, D28] -/
def Obligations.StepFaultsInPriorityOrder : Prop :=
  ∀ s : State, s.queue = [] → s.tickIsNext = false →
    (s.mode = .idle → step s = .fault .notLoaded) ∧
    (s.mode = .loaded → 4095 < s.ip.toNat → step s = .fault (.outOfBounds s.ip.toNat)) ∧
    (s.mode = .loaded → s.ip.toNat = 4095 → step s = .fault (.outOfBounds 4096)) ∧
    (s.mode = .loaded → s.ip.toNat < 4095 →
      lookupByOpcode s.cfg.sysPresent (s.readByte s.ip.toNat ++ s.readByte (s.ip.toNat + 1)) = none →
      step s = .fault (.decodeError (s.readByte s.ip.toNat ++ s.readByte (s.ip.toNat + 1))))

/-- With a command other than step at the head of the queue, one transition of the machine is that command performed
on the state with it taken off, a refused command changing nothing else; such a transition never stops. The
model's own in this: that commands are held in a queue (log entry 4, DESIGN CHOICE), and that a refused or a
reading command is a transition that goes on (log entry 10, DESIGN CHOICE). [70_reset_and_hazards.md section 3
(serialisation of host commands); 10_state.md section 6; 60_exceptions.md section 5; 92_eei_decisions.md D33,
D36] -/
def Obligations.QueuedCommandIsPerformedBeforeAnyStep : Prop :=
  ∀ (s : State) (c : Command) (cs : List Command), s.queue = c :: cs → c ≠ .step →
    ∃ t r, perform c { s with queue := cs } = .done t r ∧ step s = .next t ∧
      (r = .refused → t = { s with queue := cs })

/-- After reset (load of the empty program) mode is loaded, every V and I are 0, ip is 0x200, the stack is empty,
memory reads the 80 glyph bytes at 0x000-0x04F and 0 from there on, every pixel is off, DT and ST are 0 and both
pulses are low; and that state is what load of no bytes makes of the block as created. (The key inputs, the
random input, the queue, the free-value counter and the schedule are the model's choice, log entries 2 to 4 and
16, and their values are not stated; that load leaves them is.) [10_state.md section 7 (reset values);
70_reset_and_hazards.md section 1; 92_eei_decisions.md D16, D29, D30, D32] -/
def Obligations.ResetLeavesTheListedValues : Prop :=
  State.reset.mode = .loaded ∧ (∀ r, State.reset.getV r = 0) ∧ State.reset.i = 0 ∧ State.reset.ip = 0x200 ∧
  State.reset.stack = [] ∧
  (∀ a, (h : a < 80) → State.reset.readByte a = Config.specFont[a]) ∧
  (∀ a, 80 ≤ a → State.reset.readByte a = 0) ∧
  (∀ x y, Frame.pixel State.reset.fb x y = false) ∧ State.reset.dt = 0 ∧ State.reset.st = 0 ∧
  State.reset.renderRequest = false ∧ State.reset.soundAlert = false ∧
  State.created.load [] = some State.reset

/-- State.reset meets the invariant: memory canonical and inside the address space, return addresses at most 4096, a
bounded stack within its depth. [10_state.md section 7; 20_memory.md section 1; 30_encoding.md section 6] -/
def Obligations.InvariantHoldsAtReset : Prop :=
  State.reset.Inv

/-- From every state that meets the invariant, a step that answers a next state answers one that meets it: memory in
canonical form inside addresses 0-4095, every return address on the stack at most 4096, a bounded stack within
STACK_DEPTH; whether the step runs an instruction or performs a host command. [20_memory.md section 1 (bounds);
10_state.md section 3 (stack); 30_encoding.md section 6; 92_eei_decisions.md D24, D38] -/
def Obligations.StepKeepsInvariant : Prop :=
  ∀ s t : State, s.Inv → step s = .next t → t.Inv

/-- The block is created idle; an accepted load makes it loaded; a command after which the mode differs is an accepted
load, and the mode is then loaded; a loaded machine is steppable (a step that reports NotLoaded was in mode idle);
and a transition of the machine never takes a loaded machine back to idle. [R20] -/
def Obligations.OnlyLoadChangesTheMode : Prop :=
  State.created.mode = .idle ∧
  (∀ (s : State) (bytes : List Byte), bytes.length ≤ s.cfg.maxProgramBytes.val →
    ∃ t, perform (.load bytes) s = .done t .ok ∧ t.mode = .loaded) ∧
  (∀ (c : Command) (s t : State) (r : Reply), perform c s = .done t r → t.mode ≠ s.mode →
    (∃ bytes, c = .load bytes) ∧ r = .ok ∧ t.mode = .loaded) ∧
  (∀ s t : State, perform .step s = .done t (.fault .notLoaded) → s.mode = .idle) ∧
  (∀ s t : State, step s = .next t → s.mode = .loaded → t.mode = .loaded)

/-- A program of at most MAX_PROGRAM_BYTES bytes is accepted: mode loaded, V, I, DT, ST zero, ip 0x200, stack empty,
memory the program bytes from 0x200, the FONT bytes below 80 and zero elsewhere, every pixel off, pulses low,
keys and parameters as before. A longer one is refused and no state changes. [70_reset_and_hazards.md section 1;
10_state.md section 7; 92_eei_decisions.md D16, D29, D30, D32] -/
def Obligations.LoadMakesTheMachineFresh : Prop :=
  ∀ (s : State) (bytes : List Byte),
    (bytes.length ≤ s.cfg.maxProgramBytes.val → ∃ t, perform (.load bytes) s = .done t .ok ∧
      t.mode = .loaded ∧ (∀ r, t.getV r = 0) ∧ t.i = 0 ∧ t.ip = 0x200 ∧ t.stack = [] ∧
      (∀ a, t.readByte a =
        if 0x200 ≤ a ∧ a < 0x200 + bytes.length then bytes.getD (a - 0x200) 0
        else if h : a < 80 then s.cfg.font[a] else 0) ∧
      (∀ x y, Frame.pixel t.fb x y = false) ∧ t.dt = 0 ∧ t.st = 0 ∧
      t.renderRequest = false ∧ t.soundAlert = false ∧ t.keys = s.keys ∧ t.cfg = s.cfg) ∧
    (s.cfg.maxProgramBytes.val < bytes.length → perform (.load bytes) s = .done s .refused)

/-- A tick in mode loaded (the mode an accepted load leaves) decrements DT and ST if nonzero and leaves a zero one
at zero, raises sound_alert exactly where ST goes from 1 to 0 and lowers it otherwise, and changes nothing else;
in mode idle it changes nothing; a tick at the head of the queue is performed as one transition of the machine.
The model's own in this: that a tick without the transition lowers the alert (log entry 8, DEDUCED), that mode
loaded is the running of the tick (log entry 13, DEDUCED), and the queue (log entry 4, DESIGN CHOICE).
[60_exceptions.md section 3 (tick); 10_state.md section 5 (sound_alert); 70_reset_and_hazards.md section 3
(serialisation of host commands); 92_eei_decisions.md D31] -/
def Obligations.TickCountsBothTimersDown : Prop :=
  (∀ s : State, s.mode = .loaded → ∃ t, perform .tick s = .done t .ok ∧
    (s.dt = 0 → t.dt = 0) ∧ (s.dt ≠ 0 → t.dt.toNat + 1 = s.dt.toNat) ∧
    (s.st = 0 → t.st = 0) ∧ (s.st ≠ 0 → t.st.toNat + 1 = s.st.toNat) ∧
    (t.soundAlert = true ↔ s.st = 1 ∧ t.st = 0) ∧
    OnlyChanges [.delayTimer, .soundTimer, .soundAlert] s t) ∧
  (∀ s : State, s.mode = .idle → perform .tick s = .done s .ok) ∧
  (∀ (s : State) (bytes : List Byte) (t : State), s.load bytes = some t → t.mode = .loaded) ∧
  (∀ (s : State) (cs : List Command), s.queue = .tick :: cs →
    ∃ t, perform .tick { s with queue := cs } = .done t .ok ∧ step s = .next t)

/-- set-register with index at most 15 and value at most 255 writes that register and nothing else, and is refused
with no change otherwise; get-register answers the register for an index at most 15 and is refused otherwise;
set-ip writes ip and nothing else for an address at most 0xFFFF and is refused otherwise. [10_state.md section 6
(host register access); 60_exceptions.md section 5; 92_eei_decisions.md D33] -/
def Obligations.HostRegisterAndIpCommands : Prop :=
  (∀ (s : State) (index value : Nat), index ≤ 15 → value ≤ 255 →
    ∃ t, perform (.setRegister index value) s = .done t .ok ∧
      (∀ r, (t.getV r).toNat = if r.toNat = index then value else (s.getV r).toNat) ∧ OnlyChanges [.registers] s t) ∧
  (∀ (s : State) (index value : Nat), 15 < index ∨ 255 < value →
    perform (.setRegister index value) s = .done s .refused) ∧
  (∀ (s : State) (r : Nibble), perform (.getRegister r.toNat) s = .done s (.value (s.getV r))) ∧
  (∀ (s : State) (index : Nat), 15 < index → perform (.getRegister index) s = .done s .refused) ∧
  (∀ (s : State) (addr : Nat), addr ≤ 0xFFFF →
    ∃ t, perform (.setIp addr) s = .done t .ok ∧ t.ip.toNat = addr ∧ OnlyChanges [.ip] s t) ∧
  (∀ (s : State) (addr : Nat), 0xFFFF < addr → perform (.setIp addr) s = .done s .refused)

/-- get-pixel answers FB[x][y] on the screen and off outside it, changing nothing; set-pixel writes that one cell
and nothing else on the screen, and outside it changes no part of the state; and the reading is GetPixel, the
one draw uses. [R40] -/
def Obligations.PixelCommandsClampOffScreen : Prop :=
  (∀ (s : State) (x y : Nat) (hx : x < 64) (hy : y < 32),
    perform (.getPixel x y) s = .done s (.pixel s.fb[x][y]) ∧ Frame.pixel s.fb x y = s.fb[x][y]) ∧
  (∀ (s : State) (x y : Nat), 64 ≤ x ∨ 32 ≤ y →
    perform (.getPixel x y) s = .done s (.pixel false) ∧ Frame.pixel s.fb x y = false) ∧
  (∀ (s : State) (x y : Nat) (b : Bool), ∃ t, perform (.setPixel x y b) s = .done t .ok ∧
    t.fb = Frame.setPixel s.fb x y b ∧ OnlyChanges [.screen] s t ∧
    (∀ x' y', Frame.pixel t.fb x' y' =
      if x' = x ∧ y' = y ∧ x < 64 ∧ y < 32 then b else Frame.pixel s.fb x' y'))

/-- For every register and byte: an instruction (li) writes it and an instruction (mov) copies it out; a host
set-register writes any value 0 to 255 and get-register then reads it; no write of one register changes another;
and after an accepted load every register is zero. A register is a byte, so every write is taken mod 256 (addi
adds mod 256). [R21] -/
def Obligations.EveryRegisterIsReadableAndWritable : Prop :=
  (∀ (s : State) (r : Nibble) (b : Byte), ∃ t, exec (.li r b) s = .next t ∧ OneRegister r b s t ∧
    ∀ q, ∃ u, exec (.mov q r) t = .next u ∧ OneRegister q b t u) ∧
  (∀ (s : State) (r : Nibble) (b : Byte), ∃ t, perform (.setRegister r.toNat b.toNat) s = .done t .ok ∧
    OneRegister r b s t ∧ perform (.getRegister r.toNat) t = .done t (.value b)) ∧
  (∀ (s : State) (x : Nibble) (kk : Byte), ∃ t, exec (.addi x kk) s = .next t ∧
    (s.cfg.addiSetsVf = false → (t.getV x).toNat = ((s.getV x).toNat + kk.toNat) % 256)) ∧
  (∀ (s t : State) (bytes : List Byte), s.load bytes = some t → ∀ r, t.getV r = 0)

/-- MemRead(ip, 2) is the byte at ip in the high half and the byte at ip + 1 in the low half where both are at most
4095, and otherwise raises OutOfBounds with the first address above 4095; a byte stored at an address is read
back there and changes no other address; a checked access of any length with an address above 4095 has no effect
and raises OutOfBounds with the first such address. [R12] -/
def Obligations.MemoryPrimitivesCheckEveryAddress : Prop :=
  (∀ s : State, s.ip.toNat ≤ 4094 →
    s.fetchWord = .ok (s.readByte s.ip.toNat ++ s.readByte (s.ip.toNat + 1))) ∧
  (∀ s : State, s.ip.toNat = 4095 → s.fetchWord = .error (.outOfBounds 4096)) ∧
  (∀ s : State, 4095 < s.ip.toNat → s.fetchWord = .error (.outOfBounds s.ip.toNat)) ∧
  (∀ (s : State) (a a' : Nat) (b : Byte), (s.writeByte a b).readByte a' = if a' = a then b else s.readByte a') ∧
  (∀ (base len : Nat) (effect : Result), (∀ k < len, base + k ≤ 4095) → guardRange base len effect = effect) ∧
  (∀ (base len k : Nat) (effect : Result), k < len → 4095 < base + k → (∀ j < k, base + j ≤ 4095) →
    guardRange base len effect = .fault (.outOfBounds (base + k)))

/-- Where a step command reports a fault and the state stays known, the state is the one before it but for the
render pulse, which is low, and a second step command with no host action in between reports the same fault and
leaves that state. The model's own in this: that the host goes on in the state the step started from, and that
the state after an OutOfBounds of a data access is not known (log entry 9, DESIGN CHOICE), and that the faulting
step has lowered the pulse (log entry 8, DEDUCED), where the spec says that machine state is unchanged.
[60_exceptions.md sections 1 and 2 (DecodeError, trap entry and return); 10_state.md section 5 (render_request);
92_eei_decisions.md D24, D33] -/
def Obligations.FaultLeavesTheSessionWhereItWas : Prop :=
  ∀ (s t : State) (f : Fault), perform .step s = .done t (.fault f) →
    t = { s with renderRequest := false } ∧ perform .step t = .done t (.fault f)

/-- exec never refuses. A fault of exec is OutOfBounds of an address above 4095 by draw, bcd, stm or ldm,
StackOverflow by call or jmpv0 on a stack without room, or KeyOutOfRange of the register's value above 15 by skp
or sknp. [60_exceptions.md section 1 (outcomes); 92_eei_decisions.md D24, D38, D39] -/
def Obligations.ExecFaultsAreTheSpecsOutcomes : Prop :=
  (∀ (i : Instr) (s : State) (r : Refusal), exec i s ≠ .refused r) ∧
  (∀ (i : Instr) (s : State) (f : Fault), exec i s = .fault f →
    (∃ a, f = .outOfBounds a ∧ 4095 < a ∧
      ((∃ x y n, i = .draw x y n) ∨ (∃ x, i = .bcd x) ∨ (∃ x, i = .stm x) ∨ (∃ x, i = .ldm x))) ∨
    (f = .stackOverflow ∧ ¬ s.hasRoom ∧
      ((∃ nnn, i = .call nnn) ∨ (s.cfg.jumpV0Pushes = true ∧ ∃ nnn, i = .jmpv0 nnn))) ∨
    (∃ x, f = .keyOutOfRange (s.getV x) ∧ 15 < (s.getV x).toNat ∧ (i = .skp x ∨ i = .sknp x)))

/-- Where exec answers a next state, ip is one of the instruction's possible next addresses (a + 2; a + 2 or a + 4
for a skip; the target of jmp and call), or stays for a waiting wkey and for ret on an empty stack, or is the
popped address for ret (a + 2 on an empty stack under advance), or nnn + V0 for jmpv0. [30_encoding.md section 6
(an inference the spec marks as derived); 30_encoding.md section 7 (possible next values); 92_eei_decisions.md
D12, D13, D18] -/
def Obligations.IpGoesWhereTheInstructionSays : Prop :=
  ∀ (i : Instr) (s t : State), exec i s = .next t →
    t.ip ∈ possibleNext i s.ip ∨
    ((∃ x, i = .wkey x) ∧ (∀ k : Fin 16, s.keys[k] = false) ∧ t.ip = s.ip) ∨
    (i = .ret ∧ (∃ rest, s.stack = t.ip :: rest)) ∨
    (i = .ret ∧ s.stack = [] ∧ t.ip = (match s.cfg.retEmpty with | .stay => s.ip | .advance => s.ip + 2)) ∨
    (∃ nnn, i = .jmpv0 nnn ∧ t.ip.toNat = nnn.toNat + (s.getV 0).toNat)

/-- Where exec answers a next state, every register that the register-access table does not name as written by the
instruction (its destination, or VF for the flag writers) is unchanged; skips and control flow write none.
[10_state.md section 2 (register access by instruction); 92_eei_decisions.md D1, D2, D7, D8] -/
def Obligations.RegistersWrittenAreTheTabledOnes : Prop :=
  ∀ (i : Instr) (s t : State) (r : Nibble), exec i s = .next t → writesRegister s.cfg i r = false →
    t.getV r = s.getV r

/-- For every instruction, where exec answers a next state, every part of the state outside its listed ones is
unchanged: the registers, I, the stack (only call, ret and a pushing jmpv0), every byte of memory (only bcd and
stm), every pixel (only cls and draw), DT (only sdt), ST (only sst), the render request (only cls and draw), the
supplied draws of the random input (only rnd), the free-value counter (only rnd and wkey; log entry 3); mode,
keys, the alert, the parameters, the queue (log entry 4) and the schedule (log entry 16) by none. [10_state.md
sections 1 to 5; 20_memory.md section 1 (the accesses that reach memory); 92_eei_decisions.md D1, D14, D19, D32] -/
def Obligations.EveryInstructionFrame : Prop :=
  ∀ (i : Instr) (s t : State), exec i s = .next t → OnlyChanges (partsWritten s.cfg i) s t

/-- For every instruction but gdt, sdt and sst: executing it after a tick gives the tick of the state it gives
without one, and the same fault where it faults; so only those three depend on how many ticks fall between two
steps. [20_memory.md section 3 (consistency); 60_exceptions.md section 3 (tick scheduling);
70_reset_and_hazards.md section 3 (timer race); 92_eei_decisions.md D31] -/
def Obligations.TickCommutesWithUntimedInstructions : Prop :=
  ∀ (i : Instr) (s : State), (∀ x, i ≠ .gdt x ∧ i ≠ .sdt x ∧ i ≠ .sst x) →
    (∀ t, exec i s = .next t → exec i s.tick = .next t.tick) ∧
    (∀ f, exec i s = .fault f → exec i s.tick = .fault f)

/-- For every instruction but skp, sknp and wkey and every key state the host could supply instead: the next state
is the same but for the keys, and a fault is the same fault. [10_state.md section 4 (KEY); 60_exceptions.md
section 2 (interrupts); 92_eei_decisions.md D19] -/
def Obligations.OnlyKeyInstructionsReadTheKeys : Prop :=
  ∀ (i : Instr) (s : State) (keys : Vector Bool 16), (∀ x, i ≠ .skp x ∧ i ≠ .sknp x ∧ i ≠ .wkey x) →
    (∀ t, exec i s = .next t → exec i { s with keys := keys } = .next { t with keys := keys }) ∧
    (∀ f, exec i s = .fault f → exec i { s with keys := keys } = .fault f)

/-- A loaded state whose ip holds 0x1000 | ip, with no command pending: the next transition keeps it at that jump
with no command pending; an instruction step changes nothing but the render pulse, which it lowers, and the
schedule; a tick changes only what a tick changes, and the schedule. The pulse in State is log entry 8
(DEDUCED), the queue log entry 4 and the schedule log entry 16 (DESIGN CHOICE). [60_exceptions.md section 5 (end
of a run); 60_exceptions.md section 3 (tick); 10_state.md section 5 (render_request); 92_eei_decisions.md D31,
D37] -/
def Obligations.SelfJumpIsTheEndOfARun : Prop :=
  ∀ s : State, s.atSelfJump → s.queue = [] →
    ∃ t, step s = .next t ∧ t.atSelfJump ∧ t.queue = [] ∧
      (s.tickIsNext = false → t = { s with renderRequest := false, schedule := s.schedule.countStep }) ∧
      (s.tickIsNext = true → t = { s.tick with schedule := s.schedule.countTick })

/-- After stm vx that fits, setting ip to the address of the k-th stored byte (k + 1 at most x) makes the fetch read
V[k] and V[k+1] as one big-endian word: no fence or delay is needed. [20_memory.md section 3 (instruction-fetch
coherence); 92_eei_decisions.md D35] -/
def Obligations.StoredBytesAreFetchedAsWritten : Prop :=
  ∀ (x : Nibble) (s : State) (k : Nat), s.i.toNat + x.toNat + 1 ≤ 4096 → k + 1 ≤ x.toNat →
    ∃ t, exec (.stm x) s = .next t ∧
      State.fetchWord { t with ip := BitVec.ofNat 16 (s.i.toNat + k) } =
        .ok (s.getV (BitVec.ofNat 4 k) ++ s.getV (BitVec.ofNat 4 (k + 1)))

/-- li vx, kk completes in every state with V[x] = kk, mov vx, vy with V[x] = the old V[y]; every other register,
every flag and all other state unchanged, ip + 2. [40_alu.md section 2 (li, mov); 92_eei_decisions.md D1, D2] -/
def Obligations.LoadImmediateAndCopyWriteOneRegister : Prop :=
  (∀ (x : Nibble) (kk : Byte) (s : State), ∃ t, exec (.li x kk) s = .next t ∧
    OneRegister x kk s t ∧ t.ip = s.ip + 2 ∧ OnlyChanges [.registers, .ip] s t) ∧
  (∀ (x y : Nibble) (s : State), ∃ t, exec (.mov x y) s = .next t ∧
    OneRegister x (s.getV y) s t ∧ t.ip = s.ip + 2 ∧ OnlyChanges [.registers, .ip] s t)

/-- addi vx, kk completes in every state: with ADDI_SETS_VF false only V[x] is written, with V[x] + kk mod 256; with
it true VF also takes 1 iff the sum exceeds 255, in the write order of VF_WRITE_ORDER; ip + 2, all else
unchanged. [40_alu.md section 2 (addi); 92_eei_decisions.md D5, D7] -/
def Obligations.AddImmediateWraps : Prop :=
  ∀ (x : Nibble) (kk : Byte) (s : State), ∃ t, exec (.addi x kk) s = .next t ∧
    (s.cfg.addiSetsVf = false → OneRegister x (s.getV x + kk) s t) ∧
    (s.cfg.addiSetsVf = true →
      ResultAndFlag x (s.getV x + kk) (if 255 < (s.getV x).toNat + kk.toNat then 1 else 0) s t) ∧
    t.ip = s.ip + 2 ∧ OnlyChanges [.registers, .ip] s t

/-- or, and and xor complete in every state: V[x] takes the bitwise result of the old V[x] and V[y]; VF is written
(with 0, in the order of VF_WRITE_ORDER) only where LOGIC_RESETS_VF is true; ip + 2, all else unchanged.
[40_alu.md section 3; 92_eei_decisions.md D1, D5, D8] -/
def Obligations.BitwiseLogicWritesTheResult : Prop :=
  (∀ (x y : Nibble) (s : State), ∃ t, exec (.or x y) s = .next t ∧
    (s.cfg.logicResetsVf = false → OneRegister x (s.getV x ||| s.getV y) s t) ∧
    (s.cfg.logicResetsVf = true → ResultAndFlag x (s.getV x ||| s.getV y) 0 s t) ∧
    t.ip = s.ip + 2 ∧ OnlyChanges [.registers, .ip] s t) ∧
  (∀ (x y : Nibble) (s : State), ∃ t, exec (.and x y) s = .next t ∧
    (s.cfg.logicResetsVf = false → OneRegister x (s.getV x &&& s.getV y) s t) ∧
    (s.cfg.logicResetsVf = true → ResultAndFlag x (s.getV x &&& s.getV y) 0 s t) ∧
    t.ip = s.ip + 2 ∧ OnlyChanges [.registers, .ip] s t) ∧
  (∀ (x y : Nibble) (s : State), ∃ t, exec (.xor x y) s = .next t ∧
    (s.cfg.logicResetsVf = false → OneRegister x (s.getV x ^^^ s.getV y) s t) ∧
    (s.cfg.logicResetsVf = true → ResultAndFlag x (s.getV x ^^^ s.getV y) 0 s t) ∧
    t.ip = s.ip + 2 ∧ OnlyChanges [.registers, .ip] s t)

/-- add vx, vy completes in every state: V[x] takes V[x] + V[y] mod 256 and VF 1 iff the true sum exceeds 255, else
0; where x is VF the order of VF_WRITE_ORDER decides; ip + 2, all else unchanged. [40_alu.md sections 1 and 4
(add); 92_eei_decisions.md D5, D6, D11] -/
def Obligations.AddSetsCarry : Prop :=
  ∀ (x y : Nibble) (s : State), ∃ t, exec (.add x y) s = .next t ∧
    ResultAndFlag x (s.getV x + s.getV y) (if 255 < (s.getV x).toNat + (s.getV y).toNat then 1 else 0) s t ∧
    t.ip = s.ip + 2 ∧ OnlyChanges [.registers, .ip] s t

/-- sub vx, vy completes in every state with V[x] - V[y] mod 256 in V[x] and VF 1 iff V[x] < V[y]; subn with V[y] -
V[x] mod 256 and VF 1 iff V[y] < V[x]; equal operands give VF 0; where x is VF the order of VF_WRITE_ORDER
decides; ip + 2, all else unchanged. [40_alu.md section 4 (sub, subn); 90_conflicts.md C1; 92_eei_decisions.md
D5, D6, D10, D11] -/
def Obligations.SubtractSetsBorrow : Prop :=
  (∀ (x y : Nibble) (s : State), ∃ t, exec (.sub x y) s = .next t ∧
    ResultAndFlag x (s.getV x - s.getV y) (if (s.getV x).toNat < (s.getV y).toNat then 1 else 0) s t ∧
    t.ip = s.ip + 2 ∧ OnlyChanges [.registers, .ip] s t) ∧
  (∀ (x y : Nibble) (s : State), ∃ t, exec (.subn x y) s = .next t ∧
    ResultAndFlag x (s.getV y - s.getV x) (if (s.getV y).toNat < (s.getV x).toNat then 1 else 0) s t ∧
    t.ip = s.ip + 2 ∧ OnlyChanges [.registers, .ip] s t)

/-- shr and shl complete in every state: the source is V[x], or V[y] where SHIFT_SOURCE is vy; V[x] takes half the
source rounded down, or twice it mod 256, and VF the source's bit 0, or bit 7; where x is VF the order of
VF_WRITE_ORDER decides; ip + 2, all else unchanged. [40_alu.md section 5; 92_eei_decisions.md D1, D5, D9] -/
def Obligations.ShiftsMoveOneBitIntoVf : Prop :=
  ∀ (x y : Nibble) (s : State) (a : Byte), a = (match s.cfg.shiftSource with | .vx => s.getV x | .vy => s.getV y) →
    (∃ t, exec (.shr x y) s = .next t ∧
      ResultAndFlag x (BitVec.ofNat 8 (a.toNat / 2)) (BitVec.ofNat 8 (a.toNat % 2)) s t ∧
      t.ip = s.ip + 2 ∧ OnlyChanges [.registers, .ip] s t) ∧
    (∃ t, exec (.shl x y) s = .next t ∧
      ResultAndFlag x (BitVec.ofNat 8 (2 * a.toNat % 256)) (BitVec.ofNat 8 (a.toNat / 128)) s t ∧
      t.ip = s.ip + 2 ∧ OnlyChanges [.registers, .ip] s t)

/-- sys nnn completes in every state with ip + 2 and jmp nnn with ip = nnn (zero-extended), all else unchanged.
[41_control_flow.md section 2 (sys, jmp); 92_eei_decisions.md D1, D3] -/
def Obligations.SysIsNoOpAndJmpGoesToTarget : Prop :=
  (∀ (nnn : Addr12) (s : State), ∃ t, exec (.sys nnn) s = .next t ∧ t.ip = s.ip + 2 ∧ OnlyChanges [.ip] s t) ∧
  (∀ (nnn : Addr12) (s : State), ∃ t, exec (.jmp nnn) s = .next t ∧ t.ip.toNat = nnn.toNat ∧ OnlyChanges [.ip] s t)

/-- jmpv0 nnn completes where JUMP_V0_PUSHES is false or a push has room: ip is the natural nnn + V0, not reduced to
12 bits; the stack gains a + 2 exactly where JUMP_V0_PUSHES is true; all else unchanged. [41_control_flow.md
section 2 (jmpv0); 92_eei_decisions.md D12, D27, D38] -/
def Obligations.IndexedJumpAddsV0 : Prop :=
  ∀ (nnn : Addr12) (s : State), s.cfg.jumpV0Pushes = false ∨ s.hasRoom →
    ∃ t, exec (.jmpv0 nnn) s = .next t ∧ t.ip.toNat = nnn.toNat + (s.getV 0).toNat ∧
      t.stack = (if s.cfg.jumpV0Pushes then (s.ip + 2) :: s.stack else s.stack) ∧ OnlyChanges [.stack, .ip] s t

/-- call nnn completes where a push has room (always with the unbounded stack): the stack gains a + 2 on top, ip is
nnn, all else unchanged. [41_control_flow.md section 2 (call); 10_state.md section 3 (stack);
92_eei_decisions.md D38] -/
def Obligations.CallPushesTheReturnAddress : Prop :=
  ∀ (nnn : Addr12) (s : State), s.hasRoom →
    ∃ t, exec (.call nnn) s = .next t ∧ t.stack = (s.ip + 2) :: s.stack ∧ t.ip.toNat = nnn.toNat ∧
      OnlyChanges [.stack, .ip] s t

/-- With STACK_DEPTH bounded and the stack at it, call faults with StackOverflow, and so does jmpv0 where
JUMP_V0_PUSHES is true; a fault leaves no next state, so nothing is written. [60_exceptions.md section 1
(StackOverflow); 92_eei_decisions.md D12, D38] -/
def Obligations.PushOnFullStackFaults : Prop :=
  ∀ (nnn : Addr12) (s : State) (depth : Nat), s.cfg.stackDepth = some depth → depth ≤ s.stack.length →
    exec (.call nnn) s = .fault .stackOverflow ∧
    (s.cfg.jumpV0Pushes = true → exec (.jmpv0 nnn) s = .fault .stackOverflow)

/-- ret completes in every state: with a top entry ip takes it and the stack loses it; with the stack empty ip stays
under stay and becomes a + 2 under advance; all else unchanged. [41_control_flow.md section 2 (ret);
90_conflicts.md C6; 92_eei_decisions.md D13] -/
def Obligations.RetPopsOrActsAsRetEmptySays : Prop :=
  ∀ s : State, ∃ t, exec .ret s = .next t ∧
    (∀ top rest, s.stack = top :: rest → t.ip = top ∧ t.stack = rest) ∧
    (s.stack = [] → t.stack = [] ∧ (s.cfg.retEmpty = .stay → t.ip = s.ip) ∧
      (s.cfg.retEmpty = .advance → t.ip = s.ip + 2)) ∧
    OnlyChanges [.stack, .ip] s t

/-- Where call has room, a ret in any later state with the stack as call left it sets ip to the call's address plus
2 and leaves the stack as it was before the call. [41_control_flow.md section 2 (call, ret); 92_eei_decisions.md
D38] -/
def Obligations.CallThenRetComesBack : Prop :=
  ∀ (nnn : Addr12) (s : State), s.hasRoom → ∃ t, exec (.call nnn) s = .next t ∧
    ∀ u : State, u.stack = t.stack → ∃ w, exec .ret u = .next w ∧ w.ip = s.ip + 2 ∧ w.stack = s.stack

/-- sei and snei compare V[x] with kk, se and sne V[x] with V[y], on the state before; each completes in every state
with ip + 4 if the condition holds, else ip + 2; no register, VF included, and nothing else changes.
[41_control_flow.md sections 1 and 3; 92_eei_decisions.md D1] -/
def Obligations.SkipsCompareAndMoveOnlyIp : Prop :=
  (∀ (x : Nibble) (kk : Byte) (s : State), ∃ t, exec (.sei x kk) s = .next t ∧
    t.ip = (if s.getV x = kk then s.ip + 4 else s.ip + 2) ∧ OnlyChanges [.ip] s t) ∧
  (∀ (x : Nibble) (kk : Byte) (s : State), ∃ t, exec (.snei x kk) s = .next t ∧
    t.ip = (if s.getV x ≠ kk then s.ip + 4 else s.ip + 2) ∧ OnlyChanges [.ip] s t) ∧
  (∀ (x y : Nibble) (s : State), ∃ t, exec (.se x y) s = .next t ∧
    t.ip = (if s.getV x = s.getV y then s.ip + 4 else s.ip + 2) ∧ OnlyChanges [.ip] s t) ∧
  (∀ (x y : Nibble) (s : State), ∃ t, exec (.sne x y) s = .next t ∧
    t.ip = (if s.getV x ≠ s.getV y then s.ip + 4 else s.ip + 2) ∧ OnlyChanges [.ip] s t)

/-- For V[x] at most 15: skp completes with ip + 4 if that key is pressed, else ip + 2; sknp the other way round;
nothing else changes. [41_control_flow.md section 3 (skp, sknp); 92_eei_decisions.md D1, D19, D39] -/
def Obligations.KeySkipsTestTheNamedKey : Prop :=
  ∀ (x : Nibble) (s : State) (k : Fin 16), (s.getV x).toNat = k.val →
    (∃ t, exec (.skp x) s = .next t ∧ t.ip = (if s.keys[k] = true then s.ip + 4 else s.ip + 2) ∧
      OnlyChanges [.ip] s t) ∧
    (∃ t, exec (.sknp x) s = .next t ∧ t.ip = (if s.keys[k] = true then s.ip + 2 else s.ip + 4) ∧
      OnlyChanges [.ip] s t)

/-- Where V[x] exceeds 15, skp vx and sknp vx fault with KeyOutOfRange of that value. [60_exceptions.md section 1
(KeyOutOfRange); 92_eei_decisions.md D39] -/
def Obligations.KeyNumberAboveFifteenFaults : Prop :=
  ∀ (x : Nibble) (s : State), 15 < (s.getV x).toNat →
    exec (.skp x) s = .fault (.keyOutOfRange (s.getV x)) ∧ exec (.sknp x) s = .fault (.keyOutOfRange (s.getV x))

/-- cls completes in every state with every pixel off, render_request raised and ip + 2; VF and all else unchanged.
[42_display.md (cls); 10_state.md section 5 (render_request); 92_eei_decisions.md D1, D23, D32] -/
def Obligations.ClsTurnsEveryPixelOff : Prop :=
  ∀ s : State, ∃ t, exec .cls s = .next t ∧ (∀ x y, Frame.pixel t.fb x y = false) ∧ t.renderRequest = true ∧
    t.ip = s.ip + 2 ∧ OnlyChanges [.screen, .renderRequest, .ip] s t

/-- draw vx, vy, n whose sprite bytes are in memory (n = 0 reads none) completes: every on-screen pixel is inverted
exactly where the sprite has a set bit (bit 7 leftmost, no wrap), VF is 1 iff such a bit lies over a pixel that
was on and 0 otherwise, render_request is raised, ip + 2; every other register and all else unchanged.
[42_display.md (draw, collision sampling); 10_state.md section 6 (pixel access); 92_eei_decisions.md D21, D22,
D24, D32] -/
def Obligations.DrawXorsTheSpriteAndReportsCollision : Prop :=
  ∀ (x y n : Nibble) (s : State), n = 0 ∨ s.i.toNat + n.toNat ≤ 4096 →
    ∃ t, exec (.draw x y n) s = .next t ∧
      (∀ px py, px < 64 → py < 32 →
        (Frame.pixel t.fb px py = true ↔ ¬ (Frame.pixel s.fb px py = true ↔ SpriteBit x y n s px py))) ∧
      (t.getV 15 = 1 ∨ t.getV 15 = 0) ∧
      (t.getV 15 = 1 ↔ ∃ px py, px < 64 ∧ py < 32 ∧ SpriteBit x y n s px py ∧ Frame.pixel s.fb px py = true) ∧
      (∀ r, r ≠ 15 → t.getV r = s.getV r) ∧ t.renderRequest = true ∧ t.ip = s.ip + 2 ∧
      OnlyChanges [.registers, .screen, .renderRequest, .ip] s t

/-- Where draw fits and neither coordinate register is VF, a second execution of it right after the first leaves
every pixel as before both, and gives VF = 1 iff some on-screen set sprite bit lay over a pixel that was off
before both (on a clear screen: iff the sprite has an on-screen set bit). The VF clause is the model's reading
(log entry 12, DEDUCED): it follows the pseudocode of draw and so departs from the corner-case sentence there,
which says VF = 1 if the sprite has any on-screen set bit. [42_display.md (draw, pseudocode and corner cases);
92_eei_decisions.md D21] -/
def Obligations.DrawingTwiceRestoresTheScreen : Prop :=
  ∀ (x y n : Nibble) (s : State), x ≠ 15 → y ≠ 15 → n = 0 ∨ s.i.toNat + n.toNat ≤ 4096 →
    ∃ t u, exec (.draw x y n) s = .next t ∧ exec (.draw x y n) t = .next u ∧
      (∀ px py, Frame.pixel u.fb px py = Frame.pixel s.fb px py) ∧
      (u.getV 15 = 1 ↔ ∃ px py, px < 64 ∧ py < 32 ∧ SpriteBit x y n s px py ∧ Frame.pixel s.fb px py = false)

/-- rnd vx, kk completes in every state: V[x] takes the draw (the host's next supplied byte, or the free value where
it has supplied none) AND kk, so 0 where kk is 0; the draw is used up; no other register and nothing else
changes; ip + 2. How a draw is supplied is the model's choice (log entry 3). [43_io_timers_random.md (rnd);
10_state.md section 4 (random source); 92_eei_decisions.md D1, D20] -/
def Obligations.RandomByteIsMasked : Prop :=
  ∀ (x : Nibble) (kk : Byte) (s : State), ∃ t, exec (.rnd x kk) s = .next t ∧
    OneRegister x ((match s.rand with | b :: _ => b | [] => Config.randomByte s.draws) &&& kk) s t ∧
    (kk = 0 → t.getV x = 0) ∧ t.rand = s.rand.tail ∧
    t.draws = (if s.rand = [] then s.draws + 1 else s.draws) ∧ t.ip = s.ip + 2 ∧
    OnlyChanges [.registers, .randomInput, .freeValues, .ip] s t

/-- gdt vx completes with V[x] = DT, sdt vx with DT = V[x], sst vx with ST = V[x], in every state; ip + 2; nothing
else changes, the sound alert included. [43_io_timers_random.md (gdt, sdt, sst); 92_eei_decisions.md D1, D31] -/
def Obligations.TimerRegistersAreReadAndWritten : Prop :=
  (∀ (x : Nibble) (s : State), ∃ t, exec (.gdt x) s = .next t ∧
    OneRegister x s.dt s t ∧ t.ip = s.ip + 2 ∧ OnlyChanges [.registers, .ip] s t) ∧
  (∀ (x : Nibble) (s : State), ∃ t, exec (.sdt x) s = .next t ∧
    t.dt = s.getV x ∧ t.ip = s.ip + 2 ∧ OnlyChanges [.delayTimer, .ip] s t) ∧
  (∀ (x : Nibble) (s : State), ∃ t, exec (.sst x) s = .next t ∧
    t.st = s.getV x ∧ t.ip = s.ip + 2 ∧ OnlyChanges [.soundTimer, .ip] s t)

/-- Where some key is pressed, wkey vx completes: V[x] takes the number of a key that is pressed, no other register
changes, ip + 2, all else but the free-value counter unchanged, the draws the host has supplied on the random
input included. Which pressed key it is stays free, and the counter, which advances by one, is the model's own
(log entry 3, DESIGN CHOICE). [43_io_timers_random.md (wkey); 92_eei_decisions.md D1, D18] -/
def Obligations.WaitForKeyTakesAPressedKey : Prop :=
  ∀ (x : Nibble) (s : State), (∃ k : Fin 16, s.keys[k] = true) →
    ∃ t, ∃ k : Fin 16, exec (.wkey x) s = .next t ∧ s.keys[k] = true ∧
      OneRegister x (BitVec.ofNat 8 k.val) s t ∧ t.ip = s.ip + 2 ∧ t.rand = s.rand ∧ t.draws = s.draws + 1 ∧
      OnlyChanges [.registers, .freeValues, .ip] s t

/-- Where no key is pressed, wkey vx answers the same state: ip stays, so the next step executes it again.
[43_io_timers_random.md (wkey); 92_eei_decisions.md D18] -/
def Obligations.WaitForKeyStaysWithNoKey : Prop :=
  ∀ (x : Nibble) (s : State), (∀ k : Fin 16, s.keys[k] = false) → exec (.wkey x) s = .next s

/-- ldi completes with I = nnn; iadd with I = (I + V[x]) mod 65536; font with I = FONT_STRIDE * (V[x] mod 16) mod
65536; in every state, ip + 2, VF and all else unchanged. [44_index_memory.md (ldi, iadd, font);
92_eei_decisions.md D1, D15, D16] -/
def Obligations.IndexRegisterIsLoadedAddedAndPointed : Prop :=
  (∀ (nnn : Addr12) (s : State), ∃ t, exec (.ldi nnn) s = .next t ∧
    t.i.toNat = nnn.toNat ∧ t.ip = s.ip + 2 ∧ OnlyChanges [.index, .ip] s t) ∧
  (∀ (x : Nibble) (s : State), ∃ t, exec (.iadd x) s = .next t ∧
    t.i.toNat = (s.i.toNat + (s.getV x).toNat) % 65536 ∧ t.ip = s.ip + 2 ∧ OnlyChanges [.index, .ip] s t) ∧
  (∀ (x : Nibble) (s : State), ∃ t, exec (.font x) s = .next t ∧
    t.i.toNat = s.cfg.fontStride * ((s.getV x).toNat % 16) % 65536 ∧ t.ip = s.ip + 2 ∧
    OnlyChanges [.index, .ip] s t)

/-- Where I + 3 is at most 4096, bcd vx completes: the three bytes at I hold V[x] / 100, V[x] / 10 mod 10 and V[x]
mod 10, every other byte of memory, I and all else unchanged, ip + 2. [44_index_memory.md (bcd);
92_eei_decisions.md D1, D17, D24] -/
def Obligations.BcdStoresThreeDecimalDigits : Prop :=
  ∀ (x : Nibble) (s : State), s.i.toNat + 3 ≤ 4096 → ∃ t, exec (.bcd x) s = .next t ∧
    (t.readByte s.i.toNat).toNat = (s.getV x).toNat / 100 ∧
    (t.readByte (s.i.toNat + 1)).toNat = (s.getV x).toNat / 10 % 10 ∧
    (t.readByte (s.i.toNat + 2)).toNat = (s.getV x).toNat % 10 ∧
    (∀ a, a < s.i.toNat ∨ s.i.toNat + 3 ≤ a → t.readByte a = s.readByte a) ∧
    t.ip = s.ip + 2 ∧ OnlyChanges [.memory, .ip] s t

/-- Where I + x + 1 is at most 4096, stm vx completes: byte I + k holds V[k] for every k up to x, every other byte
of memory is unchanged, I follows LOADSTORE_I_MODE, ip + 2, all else unchanged. [44_index_memory.md (stm);
92_eei_decisions.md D1, D14, D24] -/
def Obligations.StmStoresTheLowRegisters : Prop :=
  ∀ (x : Nibble) (s : State), s.i.toNat + x.toNat + 1 ≤ 4096 → ∃ t, exec (.stm x) s = .next t ∧
    (∀ k : Nibble, k.toNat ≤ x.toNat → t.readByte (s.i.toNat + k.toNat) = s.getV k) ∧
    (∀ a, a < s.i.toNat ∨ s.i.toNat + x.toNat + 1 ≤ a → t.readByte a = s.readByte a) ∧
    t.i.toNat = (match s.cfg.loadStoreMode with
      | .unchanged => s.i.toNat
      | .plusXPlus1 => (s.i.toNat + x.toNat + 1) % 65536
      | .plusX => (s.i.toNat + x.toNat) % 65536) ∧
    t.ip = s.ip + 2 ∧ OnlyChanges [.memory, .index, .ip] s t

/-- Where I + x + 1 is at most 4096, ldm vx completes: V[k] takes the byte at I + k for every k up to x, every other
register and every byte of memory is unchanged, I follows LOADSTORE_I_MODE, ip + 2, all else unchanged.
[44_index_memory.md (ldm); 92_eei_decisions.md D1, D14, D24] -/
def Obligations.LdmLoadsTheLowRegisters : Prop :=
  ∀ (x : Nibble) (s : State), s.i.toNat + x.toNat + 1 ≤ 4096 → ∃ t, exec (.ldm x) s = .next t ∧
    (∀ k : Nibble, t.getV k = if k.toNat ≤ x.toNat then s.readByte (s.i.toNat + k.toNat) else s.getV k) ∧
    t.i.toNat = (match s.cfg.loadStoreMode with
      | .unchanged => s.i.toNat
      | .plusXPlus1 => (s.i.toNat + x.toNat + 1) % 65536
      | .plusX => (s.i.toNat + x.toNat) % 65536) ∧
    t.ip = s.ip + 2 ∧ OnlyChanges [.registers, .index, .ip] s t

/-- Under LOADSTORE_I_MODE unchanged and I + x + 1 at most 4096: after stm vx, an ldm vx in any state with the same
I and the same memory gives V[k] its stored value for every k up to x. [44_index_memory.md (stm, ldm);
20_memory.md section 3 (consistency); 92_eei_decisions.md D14, D24] -/
def Obligations.LdmAfterStmRestoresTheRegisters : Prop :=
  ∀ (x : Nibble) (s : State), s.cfg.loadStoreMode = .unchanged → s.i.toNat + x.toNat + 1 ≤ 4096 →
    ∃ t, exec (.stm x) s = .next t ∧
      ∀ u : State, u.i = t.i → (∀ a, u.readByte a = t.readByte a) →
        ∃ w, exec (.ldm x) u = .next w ∧ ∀ k : Nibble, k.toNat ≤ x.toNat → w.getV k = s.getV k

/-- Where the bytes at I run past 4095, draw (n not 0), bcd, stm and ldm fault with OutOfBounds of the first address
above 4095, the larger of I and 4096; a fault leaves no next state, so nothing is drawn, written or loaded.
[60_exceptions.md section 1 (OutOfBounds); 44_index_memory.md (common rules); 42_display.md (draw);
92_eei_decisions.md D24, D27] -/
def Obligations.AccessPastTheTopFaultsFirst : Prop :=
  ∀ s : State,
    (∀ x y n : Nibble, n ≠ 0 → 4096 < s.i.toNat + n.toNat →
      exec (.draw x y n) s = .fault (.outOfBounds (max s.i.toNat 4096))) ∧
    (∀ x : Nibble, 4096 < s.i.toNat + 3 → exec (.bcd x) s = .fault (.outOfBounds (max s.i.toNat 4096))) ∧
    (∀ x : Nibble, 4096 < s.i.toNat + x.toNat + 1 →
      exec (.stm x) s = .fault (.outOfBounds (max s.i.toNat 4096)) ∧
      exec (.ldm x) s = .fault (.outOfBounds (max s.i.toNat 4096)))

/-- With FONT_STRIDE 5 and the glyph area of memory as load left it, font vx makes the five bytes at I the FONT
bytes of the digit in the low nibble of V[x]. [44_index_memory.md (font); 10_state.md section 4 (glyphs);
92_eei_decisions.md D16] -/
def Obligations.FontPointsAtTheGlyphBytes : Prop :=
  ∀ (x : Nibble) (s : State), s.cfg.fontStride = 5 → (∀ a, (h : a < 80) → s.readByte a = s.cfg.font[a]) →
    ∃ t, exec (.font x) s = .next t ∧
      ∀ k, k < 5 → some (t.readByte (t.i.toNat + k)) = s.cfg.font[5 * ((s.getV x).toNat % 16) + k]?

/-- An OutOfBounds of an instruction's data access leaves the state unobservable in a session; an accepted load
right after it gives the state load makes, and the session goes on from there; a program that is too long is
refused and the state stays unobservable; and after such a fault no reply, through any later commands, depends
on the registers, I, ip, the stack, memory, the screen, the timers, the pulses or the mode before it. How a
session carries this is log entry 9 (DESIGN CHOICE). [60_exceptions.md section 1 (OutOfBounds); 60_exceptions.md
section 2 (trap entry and return); 70_reset_and_hazards.md section 1 (load); 92_eei_decisions.md D24, D29, D33] -/
def Obligations.LoadMakesTheMachineKnownAfterALostFault : Prop :=
  (∀ (s : State) (i : Instr) (a : Nat), s.fetchInstr = .ok i → exec i s.lowerRender = .fault (.outOfBounds a) →
    perform .step s = .lost s (.outOfBounds a)) ∧
  (∀ (s : State) (a : Nat), perform .step s = .lost s (.outOfBounds a) → ∀ bytes : List Byte,
    (bytes.length ≤ s.cfg.maxProgramBytes.val → ∃ t, s.load bytes = some t ∧ ∀ cs,
      session (.step :: .load bytes :: cs) (.all s) =
        (.fault (.outOfBounds a) :: .ok :: (session cs (.all t)).1, (session cs (.all t)).2)) ∧
    (s.cfg.maxProgramBytes.val < bytes.length → ∀ cs,
      session (.step :: .load bytes :: cs) (.all s) =
        (.fault (.outOfBounds a) :: .refused :: (session cs (.inputs s)).1, (session cs (.inputs s)).2))) ∧
  (∀ (s s' : State) (cs : List Command),
    (∀ p ∈ [Part.cfg, .keys, .randomInput, .freeValues, .queue, .schedule], p.kept s s') →
    (session cs (.inputs s)).1 = (session cs (.inputs s')).1)

/-- Where no command is pending and the tick is next to move (only ever in mode loaded), one transition of the
machine is one tick: DT, ST and the alert become what the tick makes them and nothing else of the machine
changes, ip included; and in the run from any state, however far it has got, it later stops or has the tick next
to move (weak fairness), and it later stops or has an instruction step next. How many of each come in a row is a
free value; the schedule that holds it is log entry 16 (DESIGN CHOICE). [60_exceptions.md section 3 (tick, tick
scheduling); 70_reset_and_hazards.md section 3 (timer race); 92_eei_decisions.md D31, D41] -/
def Obligations.TicksFallBetweenStepsAndKeepComing : Prop :=
  (∀ s : State, s.tickIsNext = true → s.mode = .loaded) ∧
  (∀ s : State, s.queue = [] → s.tickIsNext = true → ∃ t, step s = .next t ∧
    t.dt = s.tick.dt ∧ t.st = s.tick.st ∧ t.soundAlert = s.tick.soundAlert ∧
    OnlyChanges [.delayTimer, .soundTimer, .soundAlert, .schedule] s t) ∧
  (∀ s : State, s.TicksKeepComing ∧ s.StepsKeepComing)
end

