-- ==== Sys2Proof/Laws/State.lean ====
section
/-! SUPPORT. One lemma per field per update of State, each true by rfl, so that no proof unfolds a record update. -/

namespace Sys2Proof.Machine

variable (s : State)

/-! ### setV -/

@[simp] theorem State.setV_cfg (r : Nibble) (b : Byte) : (s.setV r b).cfg = s.cfg := rfl
@[simp] theorem State.setV_mode (r : Nibble) (b : Byte) : (s.setV r b).mode = s.mode := rfl
@[simp] theorem State.setV_v (r : Nibble) (b : Byte) : (s.setV r b).v = s.v.set r.toFin b := rfl
@[simp] theorem State.setV_i (r : Nibble) (b : Byte) : (s.setV r b).i = s.i := rfl
@[simp] theorem State.setV_ip (r : Nibble) (b : Byte) : (s.setV r b).ip = s.ip := rfl
@[simp] theorem State.setV_stack (r : Nibble) (b : Byte) : (s.setV r b).stack = s.stack := rfl
@[simp] theorem State.setV_mem (r : Nibble) (b : Byte) : (s.setV r b).mem = s.mem := rfl
@[simp] theorem State.setV_fb (r : Nibble) (b : Byte) : (s.setV r b).fb = s.fb := rfl
@[simp] theorem State.setV_dt (r : Nibble) (b : Byte) : (s.setV r b).dt = s.dt := rfl
@[simp] theorem State.setV_st (r : Nibble) (b : Byte) : (s.setV r b).st = s.st := rfl
@[simp] theorem State.setV_keys (r : Nibble) (b : Byte) : (s.setV r b).keys = s.keys := rfl
@[simp] theorem State.setV_renderRequest (r : Nibble) (b : Byte) : (s.setV r b).renderRequest = s.renderRequest := rfl
@[simp] theorem State.setV_soundAlert (r : Nibble) (b : Byte) : (s.setV r b).soundAlert = s.soundAlert := rfl
@[simp] theorem State.setV_rand (r : Nibble) (b : Byte) : (s.setV r b).rand = s.rand := rfl
@[simp] theorem State.setV_draws (r : Nibble) (b : Byte) : (s.setV r b).draws = s.draws := rfl
@[simp] theorem State.setV_queue (r : Nibble) (b : Byte) : (s.setV r b).queue = s.queue := rfl
@[simp] theorem State.setV_schedule (r : Nibble) (b : Byte) : (s.setV r b).schedule = s.schedule := rfl
@[simp] theorem State.setV_readByte (r : Nibble) (b : Byte) (a : Nat) : (s.setV r b).readByte a = s.readByte a := rfl
@[simp] theorem State.setV_stackFull (r : Nibble) (b : Byte) : (s.setV r b).stackFull = s.stackFull := rfl
@[simp] theorem State.setV_pressedKeys (r : Nibble) (b : Byte) : (s.setV r b).pressedKeys = s.pressedKeys := rfl
@[simp] theorem State.setV_keyDown (r : Nibble) (b : Byte) (k : Nat) : (s.setV r b).keyDown k = s.keyDown k := rfl

/-! ### setI -/

@[simp] theorem State.setI_cfg (w : Word) : (s.setI w).cfg = s.cfg := rfl
@[simp] theorem State.setI_mode (w : Word) : (s.setI w).mode = s.mode := rfl
@[simp] theorem State.setI_v (w : Word) : (s.setI w).v = s.v := rfl
@[simp] theorem State.setI_i (w : Word) : (s.setI w).i = w := rfl
@[simp] theorem State.setI_ip (w : Word) : (s.setI w).ip = s.ip := rfl
@[simp] theorem State.setI_stack (w : Word) : (s.setI w).stack = s.stack := rfl
@[simp] theorem State.setI_mem (w : Word) : (s.setI w).mem = s.mem := rfl
@[simp] theorem State.setI_fb (w : Word) : (s.setI w).fb = s.fb := rfl
@[simp] theorem State.setI_dt (w : Word) : (s.setI w).dt = s.dt := rfl
@[simp] theorem State.setI_st (w : Word) : (s.setI w).st = s.st := rfl
@[simp] theorem State.setI_keys (w : Word) : (s.setI w).keys = s.keys := rfl
@[simp] theorem State.setI_renderRequest (w : Word) : (s.setI w).renderRequest = s.renderRequest := rfl
@[simp] theorem State.setI_soundAlert (w : Word) : (s.setI w).soundAlert = s.soundAlert := rfl
@[simp] theorem State.setI_rand (w : Word) : (s.setI w).rand = s.rand := rfl
@[simp] theorem State.setI_draws (w : Word) : (s.setI w).draws = s.draws := rfl
@[simp] theorem State.setI_queue (w : Word) : (s.setI w).queue = s.queue := rfl
@[simp] theorem State.setI_schedule (w : Word) : (s.setI w).schedule = s.schedule := rfl
@[simp] theorem State.setI_getV (w : Word) (q : Nibble) : (s.setI w).getV q = s.getV q := rfl
@[simp] theorem State.setI_readByte (w : Word) (a : Nat) : (s.setI w).readByte a = s.readByte a := rfl
@[simp] theorem State.setI_stackFull (w : Word) : (s.setI w).stackFull = s.stackFull := rfl
@[simp] theorem State.setI_pressedKeys (w : Word) : (s.setI w).pressedKeys = s.pressedKeys := rfl
@[simp] theorem State.setI_keyDown (w : Word) (k : Nat) : (s.setI w).keyDown k = s.keyDown k := rfl

/-! ### setIp -/

@[simp] theorem State.setIp_cfg (w : Word) : (s.setIp w).cfg = s.cfg := rfl
@[simp] theorem State.setIp_mode (w : Word) : (s.setIp w).mode = s.mode := rfl
@[simp] theorem State.setIp_v (w : Word) : (s.setIp w).v = s.v := rfl
@[simp] theorem State.setIp_i (w : Word) : (s.setIp w).i = s.i := rfl
@[simp] theorem State.setIp_ip (w : Word) : (s.setIp w).ip = w := rfl
@[simp] theorem State.setIp_stack (w : Word) : (s.setIp w).stack = s.stack := rfl
@[simp] theorem State.setIp_mem (w : Word) : (s.setIp w).mem = s.mem := rfl
@[simp] theorem State.setIp_fb (w : Word) : (s.setIp w).fb = s.fb := rfl
@[simp] theorem State.setIp_dt (w : Word) : (s.setIp w).dt = s.dt := rfl
@[simp] theorem State.setIp_st (w : Word) : (s.setIp w).st = s.st := rfl
@[simp] theorem State.setIp_keys (w : Word) : (s.setIp w).keys = s.keys := rfl
@[simp] theorem State.setIp_renderRequest (w : Word) : (s.setIp w).renderRequest = s.renderRequest := rfl
@[simp] theorem State.setIp_soundAlert (w : Word) : (s.setIp w).soundAlert = s.soundAlert := rfl
@[simp] theorem State.setIp_rand (w : Word) : (s.setIp w).rand = s.rand := rfl
@[simp] theorem State.setIp_draws (w : Word) : (s.setIp w).draws = s.draws := rfl
@[simp] theorem State.setIp_queue (w : Word) : (s.setIp w).queue = s.queue := rfl
@[simp] theorem State.setIp_schedule (w : Word) : (s.setIp w).schedule = s.schedule := rfl
@[simp] theorem State.setIp_getV (w : Word) (q : Nibble) : (s.setIp w).getV q = s.getV q := rfl
@[simp] theorem State.setIp_readByte (w : Word) (a : Nat) : (s.setIp w).readByte a = s.readByte a := rfl
@[simp] theorem State.setIp_stackFull (w : Word) : (s.setIp w).stackFull = s.stackFull := rfl
@[simp] theorem State.setIp_pressedKeys (w : Word) : (s.setIp w).pressedKeys = s.pressedKeys := rfl
@[simp] theorem State.setIp_keyDown (w : Word) (k : Nat) : (s.setIp w).keyDown k = s.keyDown k := rfl

/-! ### setDt -/

@[simp] theorem State.setDt_cfg (b : Byte) : (s.setDt b).cfg = s.cfg := rfl
@[simp] theorem State.setDt_mode (b : Byte) : (s.setDt b).mode = s.mode := rfl
@[simp] theorem State.setDt_v (b : Byte) : (s.setDt b).v = s.v := rfl
@[simp] theorem State.setDt_i (b : Byte) : (s.setDt b).i = s.i := rfl
@[simp] theorem State.setDt_ip (b : Byte) : (s.setDt b).ip = s.ip := rfl
@[simp] theorem State.setDt_stack (b : Byte) : (s.setDt b).stack = s.stack := rfl
@[simp] theorem State.setDt_mem (b : Byte) : (s.setDt b).mem = s.mem := rfl
@[simp] theorem State.setDt_fb (b : Byte) : (s.setDt b).fb = s.fb := rfl
@[simp] theorem State.setDt_dt (b : Byte) : (s.setDt b).dt = b := rfl
@[simp] theorem State.setDt_st (b : Byte) : (s.setDt b).st = s.st := rfl
@[simp] theorem State.setDt_keys (b : Byte) : (s.setDt b).keys = s.keys := rfl
@[simp] theorem State.setDt_renderRequest (b : Byte) : (s.setDt b).renderRequest = s.renderRequest := rfl
@[simp] theorem State.setDt_soundAlert (b : Byte) : (s.setDt b).soundAlert = s.soundAlert := rfl
@[simp] theorem State.setDt_rand (b : Byte) : (s.setDt b).rand = s.rand := rfl
@[simp] theorem State.setDt_draws (b : Byte) : (s.setDt b).draws = s.draws := rfl
@[simp] theorem State.setDt_queue (b : Byte) : (s.setDt b).queue = s.queue := rfl
@[simp] theorem State.setDt_schedule (b : Byte) : (s.setDt b).schedule = s.schedule := rfl
@[simp] theorem State.setDt_getV (b : Byte) (q : Nibble) : (s.setDt b).getV q = s.getV q := rfl
@[simp] theorem State.setDt_readByte (b : Byte) (a : Nat) : (s.setDt b).readByte a = s.readByte a := rfl
@[simp] theorem State.setDt_stackFull (b : Byte) : (s.setDt b).stackFull = s.stackFull := rfl
@[simp] theorem State.setDt_pressedKeys (b : Byte) : (s.setDt b).pressedKeys = s.pressedKeys := rfl
@[simp] theorem State.setDt_keyDown (b : Byte) (k : Nat) : (s.setDt b).keyDown k = s.keyDown k := rfl

/-! ### setSt -/

@[simp] theorem State.setSt_cfg (b : Byte) : (s.setSt b).cfg = s.cfg := rfl
@[simp] theorem State.setSt_mode (b : Byte) : (s.setSt b).mode = s.mode := rfl
@[simp] theorem State.setSt_v (b : Byte) : (s.setSt b).v = s.v := rfl
@[simp] theorem State.setSt_i (b : Byte) : (s.setSt b).i = s.i := rfl
@[simp] theorem State.setSt_ip (b : Byte) : (s.setSt b).ip = s.ip := rfl
@[simp] theorem State.setSt_stack (b : Byte) : (s.setSt b).stack = s.stack := rfl
@[simp] theorem State.setSt_mem (b : Byte) : (s.setSt b).mem = s.mem := rfl
@[simp] theorem State.setSt_fb (b : Byte) : (s.setSt b).fb = s.fb := rfl
@[simp] theorem State.setSt_dt (b : Byte) : (s.setSt b).dt = s.dt := rfl
@[simp] theorem State.setSt_st (b : Byte) : (s.setSt b).st = b := rfl
@[simp] theorem State.setSt_keys (b : Byte) : (s.setSt b).keys = s.keys := rfl
@[simp] theorem State.setSt_renderRequest (b : Byte) : (s.setSt b).renderRequest = s.renderRequest := rfl
@[simp] theorem State.setSt_soundAlert (b : Byte) : (s.setSt b).soundAlert = s.soundAlert := rfl
@[simp] theorem State.setSt_rand (b : Byte) : (s.setSt b).rand = s.rand := rfl
@[simp] theorem State.setSt_draws (b : Byte) : (s.setSt b).draws = s.draws := rfl
@[simp] theorem State.setSt_queue (b : Byte) : (s.setSt b).queue = s.queue := rfl
@[simp] theorem State.setSt_schedule (b : Byte) : (s.setSt b).schedule = s.schedule := rfl
@[simp] theorem State.setSt_getV (b : Byte) (q : Nibble) : (s.setSt b).getV q = s.getV q := rfl
@[simp] theorem State.setSt_readByte (b : Byte) (a : Nat) : (s.setSt b).readByte a = s.readByte a := rfl
@[simp] theorem State.setSt_stackFull (b : Byte) : (s.setSt b).stackFull = s.stackFull := rfl
@[simp] theorem State.setSt_pressedKeys (b : Byte) : (s.setSt b).pressedKeys = s.pressedKeys := rfl
@[simp] theorem State.setSt_keyDown (b : Byte) (k : Nat) : (s.setSt b).keyDown k = s.keyDown k := rfl

/-! ### pushed -/

@[simp] theorem State.pushed_cfg (w : Word) : (s.pushed w).cfg = s.cfg := rfl
@[simp] theorem State.pushed_mode (w : Word) : (s.pushed w).mode = s.mode := rfl
@[simp] theorem State.pushed_v (w : Word) : (s.pushed w).v = s.v := rfl
@[simp] theorem State.pushed_i (w : Word) : (s.pushed w).i = s.i := rfl
@[simp] theorem State.pushed_ip (w : Word) : (s.pushed w).ip = s.ip := rfl
@[simp] theorem State.pushed_stack (w : Word) : (s.pushed w).stack = w :: s.stack := rfl
@[simp] theorem State.pushed_mem (w : Word) : (s.pushed w).mem = s.mem := rfl
@[simp] theorem State.pushed_fb (w : Word) : (s.pushed w).fb = s.fb := rfl
@[simp] theorem State.pushed_dt (w : Word) : (s.pushed w).dt = s.dt := rfl
@[simp] theorem State.pushed_st (w : Word) : (s.pushed w).st = s.st := rfl
@[simp] theorem State.pushed_keys (w : Word) : (s.pushed w).keys = s.keys := rfl
@[simp] theorem State.pushed_renderRequest (w : Word) : (s.pushed w).renderRequest = s.renderRequest := rfl
@[simp] theorem State.pushed_soundAlert (w : Word) : (s.pushed w).soundAlert = s.soundAlert := rfl
@[simp] theorem State.pushed_rand (w : Word) : (s.pushed w).rand = s.rand := rfl
@[simp] theorem State.pushed_draws (w : Word) : (s.pushed w).draws = s.draws := rfl
@[simp] theorem State.pushed_queue (w : Word) : (s.pushed w).queue = s.queue := rfl
@[simp] theorem State.pushed_schedule (w : Word) : (s.pushed w).schedule = s.schedule := rfl
@[simp] theorem State.pushed_getV (w : Word) (q : Nibble) : (s.pushed w).getV q = s.getV q := rfl
@[simp] theorem State.pushed_readByte (w : Word) (a : Nat) : (s.pushed w).readByte a = s.readByte a := rfl
@[simp] theorem State.pushed_pressedKeys (w : Word) : (s.pushed w).pressedKeys = s.pressedKeys := rfl
@[simp] theorem State.pushed_keyDown (w : Word) (k : Nat) : (s.pushed w).keyDown k = s.keyDown k := rfl

/-! ### setStack -/

@[simp] theorem State.setStack_cfg (ws : List Word) : (s.setStack ws).cfg = s.cfg := rfl
@[simp] theorem State.setStack_mode (ws : List Word) : (s.setStack ws).mode = s.mode := rfl
@[simp] theorem State.setStack_v (ws : List Word) : (s.setStack ws).v = s.v := rfl
@[simp] theorem State.setStack_i (ws : List Word) : (s.setStack ws).i = s.i := rfl
@[simp] theorem State.setStack_ip (ws : List Word) : (s.setStack ws).ip = s.ip := rfl
@[simp] theorem State.setStack_stack (ws : List Word) : (s.setStack ws).stack = ws := rfl
@[simp] theorem State.setStack_mem (ws : List Word) : (s.setStack ws).mem = s.mem := rfl
@[simp] theorem State.setStack_fb (ws : List Word) : (s.setStack ws).fb = s.fb := rfl
@[simp] theorem State.setStack_dt (ws : List Word) : (s.setStack ws).dt = s.dt := rfl
@[simp] theorem State.setStack_st (ws : List Word) : (s.setStack ws).st = s.st := rfl
@[simp] theorem State.setStack_keys (ws : List Word) : (s.setStack ws).keys = s.keys := rfl
@[simp] theorem State.setStack_renderRequest (ws : List Word) : (s.setStack ws).renderRequest = s.renderRequest := rfl
@[simp] theorem State.setStack_soundAlert (ws : List Word) : (s.setStack ws).soundAlert = s.soundAlert := rfl
@[simp] theorem State.setStack_rand (ws : List Word) : (s.setStack ws).rand = s.rand := rfl
@[simp] theorem State.setStack_draws (ws : List Word) : (s.setStack ws).draws = s.draws := rfl
@[simp] theorem State.setStack_queue (ws : List Word) : (s.setStack ws).queue = s.queue := rfl
@[simp] theorem State.setStack_schedule (ws : List Word) : (s.setStack ws).schedule = s.schedule := rfl
@[simp] theorem State.setStack_getV (ws : List Word) (q : Nibble) : (s.setStack ws).getV q = s.getV q := rfl
@[simp] theorem State.setStack_readByte (ws : List Word) (a : Nat) : (s.setStack ws).readByte a = s.readByte a := rfl
@[simp] theorem State.setStack_pressedKeys (ws : List Word) : (s.setStack ws).pressedKeys = s.pressedKeys := rfl
@[simp] theorem State.setStack_keyDown (ws : List Word) (k : Nat) : (s.setStack ws).keyDown k = s.keyDown k := rfl

/-! ### setFb -/

@[simp] theorem State.setFb_cfg (fb : Frame) : (s.setFb fb).cfg = s.cfg := rfl
@[simp] theorem State.setFb_mode (fb : Frame) : (s.setFb fb).mode = s.mode := rfl
@[simp] theorem State.setFb_v (fb : Frame) : (s.setFb fb).v = s.v := rfl
@[simp] theorem State.setFb_i (fb : Frame) : (s.setFb fb).i = s.i := rfl
@[simp] theorem State.setFb_ip (fb : Frame) : (s.setFb fb).ip = s.ip := rfl
@[simp] theorem State.setFb_stack (fb : Frame) : (s.setFb fb).stack = s.stack := rfl
@[simp] theorem State.setFb_mem (fb : Frame) : (s.setFb fb).mem = s.mem := rfl
@[simp] theorem State.setFb_fb (fb : Frame) : (s.setFb fb).fb = fb := rfl
@[simp] theorem State.setFb_dt (fb : Frame) : (s.setFb fb).dt = s.dt := rfl
@[simp] theorem State.setFb_st (fb : Frame) : (s.setFb fb).st = s.st := rfl
@[simp] theorem State.setFb_keys (fb : Frame) : (s.setFb fb).keys = s.keys := rfl
@[simp] theorem State.setFb_renderRequest (fb : Frame) : (s.setFb fb).renderRequest = s.renderRequest := rfl
@[simp] theorem State.setFb_soundAlert (fb : Frame) : (s.setFb fb).soundAlert = s.soundAlert := rfl
@[simp] theorem State.setFb_rand (fb : Frame) : (s.setFb fb).rand = s.rand := rfl
@[simp] theorem State.setFb_draws (fb : Frame) : (s.setFb fb).draws = s.draws := rfl
@[simp] theorem State.setFb_queue (fb : Frame) : (s.setFb fb).queue = s.queue := rfl
@[simp] theorem State.setFb_schedule (fb : Frame) : (s.setFb fb).schedule = s.schedule := rfl
@[simp] theorem State.setFb_getV (fb : Frame) (q : Nibble) : (s.setFb fb).getV q = s.getV q := rfl
@[simp] theorem State.setFb_readByte (fb : Frame) (a : Nat) : (s.setFb fb).readByte a = s.readByte a := rfl
@[simp] theorem State.setFb_stackFull (fb : Frame) : (s.setFb fb).stackFull = s.stackFull := rfl
@[simp] theorem State.setFb_pressedKeys (fb : Frame) : (s.setFb fb).pressedKeys = s.pressedKeys := rfl
@[simp] theorem State.setFb_keyDown (fb : Frame) (k : Nat) : (s.setFb fb).keyDown k = s.keyDown k := rfl

/-! ### requestRender -/

@[simp] theorem State.requestRender_cfg : (s.requestRender).cfg = s.cfg := rfl
@[simp] theorem State.requestRender_mode : (s.requestRender).mode = s.mode := rfl
@[simp] theorem State.requestRender_v : (s.requestRender).v = s.v := rfl
@[simp] theorem State.requestRender_i : (s.requestRender).i = s.i := rfl
@[simp] theorem State.requestRender_ip : (s.requestRender).ip = s.ip := rfl
@[simp] theorem State.requestRender_stack : (s.requestRender).stack = s.stack := rfl
@[simp] theorem State.requestRender_mem : (s.requestRender).mem = s.mem := rfl
@[simp] theorem State.requestRender_fb : (s.requestRender).fb = s.fb := rfl
@[simp] theorem State.requestRender_dt : (s.requestRender).dt = s.dt := rfl
@[simp] theorem State.requestRender_st : (s.requestRender).st = s.st := rfl
@[simp] theorem State.requestRender_keys : (s.requestRender).keys = s.keys := rfl
@[simp] theorem State.requestRender_renderRequest : (s.requestRender).renderRequest = true := rfl
@[simp] theorem State.requestRender_soundAlert : (s.requestRender).soundAlert = s.soundAlert := rfl
@[simp] theorem State.requestRender_rand : (s.requestRender).rand = s.rand := rfl
@[simp] theorem State.requestRender_draws : (s.requestRender).draws = s.draws := rfl
@[simp] theorem State.requestRender_queue : (s.requestRender).queue = s.queue := rfl
@[simp] theorem State.requestRender_schedule : (s.requestRender).schedule = s.schedule := rfl
@[simp] theorem State.requestRender_getV (q : Nibble) : (s.requestRender).getV q = s.getV q := rfl
@[simp] theorem State.requestRender_readByte (a : Nat) : (s.requestRender).readByte a = s.readByte a := rfl
@[simp] theorem State.requestRender_stackFull : (s.requestRender).stackFull = s.stackFull := rfl
@[simp] theorem State.requestRender_pressedKeys : (s.requestRender).pressedKeys = s.pressedKeys := rfl
@[simp] theorem State.requestRender_keyDown (k : Nat) : (s.requestRender).keyDown k = s.keyDown k := rfl

/-! ### lowerRender -/

@[simp] theorem State.lowerRender_cfg : (s.lowerRender).cfg = s.cfg := rfl
@[simp] theorem State.lowerRender_mode : (s.lowerRender).mode = s.mode := rfl
@[simp] theorem State.lowerRender_v : (s.lowerRender).v = s.v := rfl
@[simp] theorem State.lowerRender_i : (s.lowerRender).i = s.i := rfl
@[simp] theorem State.lowerRender_ip : (s.lowerRender).ip = s.ip := rfl
@[simp] theorem State.lowerRender_stack : (s.lowerRender).stack = s.stack := rfl
@[simp] theorem State.lowerRender_mem : (s.lowerRender).mem = s.mem := rfl
@[simp] theorem State.lowerRender_fb : (s.lowerRender).fb = s.fb := rfl
@[simp] theorem State.lowerRender_dt : (s.lowerRender).dt = s.dt := rfl
@[simp] theorem State.lowerRender_st : (s.lowerRender).st = s.st := rfl
@[simp] theorem State.lowerRender_keys : (s.lowerRender).keys = s.keys := rfl
@[simp] theorem State.lowerRender_renderRequest : (s.lowerRender).renderRequest = false := rfl
@[simp] theorem State.lowerRender_soundAlert : (s.lowerRender).soundAlert = s.soundAlert := rfl
@[simp] theorem State.lowerRender_rand : (s.lowerRender).rand = s.rand := rfl
@[simp] theorem State.lowerRender_draws : (s.lowerRender).draws = s.draws := rfl
@[simp] theorem State.lowerRender_queue : (s.lowerRender).queue = s.queue := rfl
@[simp] theorem State.lowerRender_schedule : (s.lowerRender).schedule = s.schedule := rfl
@[simp] theorem State.lowerRender_getV (q : Nibble) : (s.lowerRender).getV q = s.getV q := rfl
@[simp] theorem State.lowerRender_readByte (a : Nat) : (s.lowerRender).readByte a = s.readByte a := rfl
@[simp] theorem State.lowerRender_stackFull : (s.lowerRender).stackFull = s.stackFull := rfl
@[simp] theorem State.lowerRender_pressedKeys : (s.lowerRender).pressedKeys = s.pressedKeys := rfl
@[simp] theorem State.lowerRender_keyDown (k : Nat) : (s.lowerRender).keyDown k = s.keyDown k := rfl

/-! ### useDraw -/

@[simp] theorem State.useDraw_cfg : (s.useDraw).cfg = s.cfg := rfl
@[simp] theorem State.useDraw_mode : (s.useDraw).mode = s.mode := rfl
@[simp] theorem State.useDraw_v : (s.useDraw).v = s.v := rfl
@[simp] theorem State.useDraw_i : (s.useDraw).i = s.i := rfl
@[simp] theorem State.useDraw_ip : (s.useDraw).ip = s.ip := rfl
@[simp] theorem State.useDraw_stack : (s.useDraw).stack = s.stack := rfl
@[simp] theorem State.useDraw_mem : (s.useDraw).mem = s.mem := rfl
@[simp] theorem State.useDraw_fb : (s.useDraw).fb = s.fb := rfl
@[simp] theorem State.useDraw_dt : (s.useDraw).dt = s.dt := rfl
@[simp] theorem State.useDraw_st : (s.useDraw).st = s.st := rfl
@[simp] theorem State.useDraw_keys : (s.useDraw).keys = s.keys := rfl
@[simp] theorem State.useDraw_renderRequest : (s.useDraw).renderRequest = s.renderRequest := rfl
@[simp] theorem State.useDraw_soundAlert : (s.useDraw).soundAlert = s.soundAlert := rfl
@[simp] theorem State.useDraw_rand : (s.useDraw).rand = s.rand := rfl
@[simp] theorem State.useDraw_draws : (s.useDraw).draws = s.draws + 1 := rfl
@[simp] theorem State.useDraw_queue : (s.useDraw).queue = s.queue := rfl
@[simp] theorem State.useDraw_schedule : (s.useDraw).schedule = s.schedule := rfl
@[simp] theorem State.useDraw_getV (q : Nibble) : (s.useDraw).getV q = s.getV q := rfl
@[simp] theorem State.useDraw_readByte (a : Nat) : (s.useDraw).readByte a = s.readByte a := rfl
@[simp] theorem State.useDraw_stackFull : (s.useDraw).stackFull = s.stackFull := rfl
@[simp] theorem State.useDraw_pressedKeys : (s.useDraw).pressedKeys = s.pressedKeys := rfl
@[simp] theorem State.useDraw_keyDown (k : Nat) : (s.useDraw).keyDown k = s.keyDown k := rfl

/-! ### setQueue -/

@[simp] theorem State.setQueue_cfg (cs : List Command) : (s.setQueue cs).cfg = s.cfg := rfl
@[simp] theorem State.setQueue_mode (cs : List Command) : (s.setQueue cs).mode = s.mode := rfl
@[simp] theorem State.setQueue_v (cs : List Command) : (s.setQueue cs).v = s.v := rfl
@[simp] theorem State.setQueue_i (cs : List Command) : (s.setQueue cs).i = s.i := rfl
@[simp] theorem State.setQueue_ip (cs : List Command) : (s.setQueue cs).ip = s.ip := rfl
@[simp] theorem State.setQueue_stack (cs : List Command) : (s.setQueue cs).stack = s.stack := rfl
@[simp] theorem State.setQueue_mem (cs : List Command) : (s.setQueue cs).mem = s.mem := rfl
@[simp] theorem State.setQueue_fb (cs : List Command) : (s.setQueue cs).fb = s.fb := rfl
@[simp] theorem State.setQueue_dt (cs : List Command) : (s.setQueue cs).dt = s.dt := rfl
@[simp] theorem State.setQueue_st (cs : List Command) : (s.setQueue cs).st = s.st := rfl
@[simp] theorem State.setQueue_keys (cs : List Command) : (s.setQueue cs).keys = s.keys := rfl
@[simp] theorem State.setQueue_renderRequest (cs : List Command) : (s.setQueue cs).renderRequest = s.renderRequest := rfl
@[simp] theorem State.setQueue_soundAlert (cs : List Command) : (s.setQueue cs).soundAlert = s.soundAlert := rfl
@[simp] theorem State.setQueue_rand (cs : List Command) : (s.setQueue cs).rand = s.rand := rfl
@[simp] theorem State.setQueue_draws (cs : List Command) : (s.setQueue cs).draws = s.draws := rfl
@[simp] theorem State.setQueue_queue (cs : List Command) : (s.setQueue cs).queue = cs := rfl
@[simp] theorem State.setQueue_schedule (cs : List Command) : (s.setQueue cs).schedule = s.schedule := rfl
@[simp] theorem State.setQueue_getV (cs : List Command) (q : Nibble) : (s.setQueue cs).getV q = s.getV q := rfl
@[simp] theorem State.setQueue_readByte (cs : List Command) (a : Nat) : (s.setQueue cs).readByte a = s.readByte a := rfl
@[simp] theorem State.setQueue_stackFull (cs : List Command) : (s.setQueue cs).stackFull = s.stackFull := rfl
@[simp] theorem State.setQueue_pressedKeys (cs : List Command) : (s.setQueue cs).pressedKeys = s.pressedKeys := rfl
@[simp] theorem State.setQueue_keyDown (cs : List Command) (k : Nat) : (s.setQueue cs).keyDown k = s.keyDown k := rfl

/-! ### setSchedule -/

@[simp] theorem State.setSchedule_cfg (c : Schedule) : (s.setSchedule c).cfg = s.cfg := rfl
@[simp] theorem State.setSchedule_mode (c : Schedule) : (s.setSchedule c).mode = s.mode := rfl
@[simp] theorem State.setSchedule_v (c : Schedule) : (s.setSchedule c).v = s.v := rfl
@[simp] theorem State.setSchedule_i (c : Schedule) : (s.setSchedule c).i = s.i := rfl
@[simp] theorem State.setSchedule_ip (c : Schedule) : (s.setSchedule c).ip = s.ip := rfl
@[simp] theorem State.setSchedule_stack (c : Schedule) : (s.setSchedule c).stack = s.stack := rfl
@[simp] theorem State.setSchedule_mem (c : Schedule) : (s.setSchedule c).mem = s.mem := rfl
@[simp] theorem State.setSchedule_fb (c : Schedule) : (s.setSchedule c).fb = s.fb := rfl
@[simp] theorem State.setSchedule_dt (c : Schedule) : (s.setSchedule c).dt = s.dt := rfl
@[simp] theorem State.setSchedule_st (c : Schedule) : (s.setSchedule c).st = s.st := rfl
@[simp] theorem State.setSchedule_keys (c : Schedule) : (s.setSchedule c).keys = s.keys := rfl
@[simp] theorem State.setSchedule_renderRequest (c : Schedule) : (s.setSchedule c).renderRequest = s.renderRequest := rfl
@[simp] theorem State.setSchedule_soundAlert (c : Schedule) : (s.setSchedule c).soundAlert = s.soundAlert := rfl
@[simp] theorem State.setSchedule_rand (c : Schedule) : (s.setSchedule c).rand = s.rand := rfl
@[simp] theorem State.setSchedule_draws (c : Schedule) : (s.setSchedule c).draws = s.draws := rfl
@[simp] theorem State.setSchedule_queue (c : Schedule) : (s.setSchedule c).queue = s.queue := rfl
@[simp] theorem State.setSchedule_schedule (c : Schedule) : (s.setSchedule c).schedule = c := rfl
@[simp] theorem State.setSchedule_getV (c : Schedule) (q : Nibble) : (s.setSchedule c).getV q = s.getV q := rfl
@[simp] theorem State.setSchedule_readByte (c : Schedule) (a : Nat) : (s.setSchedule c).readByte a = s.readByte a := rfl
@[simp] theorem State.setSchedule_stackFull (c : Schedule) : (s.setSchedule c).stackFull = s.stackFull := rfl
@[simp] theorem State.setSchedule_pressedKeys (c : Schedule) : (s.setSchedule c).pressedKeys = s.pressedKeys := rfl
@[simp] theorem State.setSchedule_keyDown (c : Schedule) (k : Nat) : (s.setSchedule c).keyDown k = s.keyDown k := rfl

/-! ### writeByte -/

@[simp] theorem State.writeByte_cfg (a : Nat) (b : Byte) : (s.writeByte a b).cfg = s.cfg := rfl
@[simp] theorem State.writeByte_mode (a : Nat) (b : Byte) : (s.writeByte a b).mode = s.mode := rfl
@[simp] theorem State.writeByte_v (a : Nat) (b : Byte) : (s.writeByte a b).v = s.v := rfl
@[simp] theorem State.writeByte_i (a : Nat) (b : Byte) : (s.writeByte a b).i = s.i := rfl
@[simp] theorem State.writeByte_ip (a : Nat) (b : Byte) : (s.writeByte a b).ip = s.ip := rfl
@[simp] theorem State.writeByte_stack (a : Nat) (b : Byte) : (s.writeByte a b).stack = s.stack := rfl
@[simp] theorem State.writeByte_mem (a : Nat) (b : Byte) : (s.writeByte a b).mem = Memory.write s.cfg.font s.mem a b := rfl
@[simp] theorem State.writeByte_fb (a : Nat) (b : Byte) : (s.writeByte a b).fb = s.fb := rfl
@[simp] theorem State.writeByte_dt (a : Nat) (b : Byte) : (s.writeByte a b).dt = s.dt := rfl
@[simp] theorem State.writeByte_st (a : Nat) (b : Byte) : (s.writeByte a b).st = s.st := rfl
@[simp] theorem State.writeByte_keys (a : Nat) (b : Byte) : (s.writeByte a b).keys = s.keys := rfl
@[simp] theorem State.writeByte_renderRequest (a : Nat) (b : Byte) : (s.writeByte a b).renderRequest = s.renderRequest := rfl
@[simp] theorem State.writeByte_soundAlert (a : Nat) (b : Byte) : (s.writeByte a b).soundAlert = s.soundAlert := rfl
@[simp] theorem State.writeByte_rand (a : Nat) (b : Byte) : (s.writeByte a b).rand = s.rand := rfl
@[simp] theorem State.writeByte_draws (a : Nat) (b : Byte) : (s.writeByte a b).draws = s.draws := rfl
@[simp] theorem State.writeByte_queue (a : Nat) (b : Byte) : (s.writeByte a b).queue = s.queue := rfl
@[simp] theorem State.writeByte_schedule (a : Nat) (b : Byte) : (s.writeByte a b).schedule = s.schedule := rfl
@[simp] theorem State.writeByte_getV (a : Nat) (b : Byte) (q : Nibble) : (s.writeByte a b).getV q = s.getV q := rfl
@[simp] theorem State.writeByte_stackFull (a : Nat) (b : Byte) : (s.writeByte a b).stackFull = s.stackFull := rfl
@[simp] theorem State.writeByte_pressedKeys (a : Nat) (b : Byte) : (s.writeByte a b).pressedKeys = s.pressedKeys := rfl
@[simp] theorem State.writeByte_keyDown (a : Nat) (b : Byte) (k : Nat) : (s.writeByte a b).keyDown k = s.keyDown k := rfl

/-! ### advance -/

@[simp] theorem State.advance_cfg : (s.advance).cfg = s.cfg := rfl
@[simp] theorem State.advance_mode : (s.advance).mode = s.mode := rfl
@[simp] theorem State.advance_v : (s.advance).v = s.v := rfl
@[simp] theorem State.advance_i : (s.advance).i = s.i := rfl
@[simp] theorem State.advance_ip : (s.advance).ip = s.ip + 2 := rfl
@[simp] theorem State.advance_stack : (s.advance).stack = s.stack := rfl
@[simp] theorem State.advance_mem : (s.advance).mem = s.mem := rfl
@[simp] theorem State.advance_fb : (s.advance).fb = s.fb := rfl
@[simp] theorem State.advance_dt : (s.advance).dt = s.dt := rfl
@[simp] theorem State.advance_st : (s.advance).st = s.st := rfl
@[simp] theorem State.advance_keys : (s.advance).keys = s.keys := rfl
@[simp] theorem State.advance_renderRequest : (s.advance).renderRequest = s.renderRequest := rfl
@[simp] theorem State.advance_soundAlert : (s.advance).soundAlert = s.soundAlert := rfl
@[simp] theorem State.advance_rand : (s.advance).rand = s.rand := rfl
@[simp] theorem State.advance_draws : (s.advance).draws = s.draws := rfl
@[simp] theorem State.advance_queue : (s.advance).queue = s.queue := rfl
@[simp] theorem State.advance_schedule : (s.advance).schedule = s.schedule := rfl
@[simp] theorem State.advance_getV (q : Nibble) : (s.advance).getV q = s.getV q := rfl
@[simp] theorem State.advance_readByte (a : Nat) : (s.advance).readByte a = s.readByte a := rfl

/-! ### skipIf -/

@[simp] theorem State.skipIf_cfg (c : Bool) : (s.skipIf c).cfg = s.cfg := rfl
@[simp] theorem State.skipIf_mode (c : Bool) : (s.skipIf c).mode = s.mode := rfl
@[simp] theorem State.skipIf_v (c : Bool) : (s.skipIf c).v = s.v := rfl
@[simp] theorem State.skipIf_i (c : Bool) : (s.skipIf c).i = s.i := rfl
@[simp] theorem State.skipIf_ip (c : Bool) : (s.skipIf c).ip = if c then s.ip + 4 else s.ip + 2 := rfl
@[simp] theorem State.skipIf_stack (c : Bool) : (s.skipIf c).stack = s.stack := rfl
@[simp] theorem State.skipIf_mem (c : Bool) : (s.skipIf c).mem = s.mem := rfl
@[simp] theorem State.skipIf_fb (c : Bool) : (s.skipIf c).fb = s.fb := rfl
@[simp] theorem State.skipIf_dt (c : Bool) : (s.skipIf c).dt = s.dt := rfl
@[simp] theorem State.skipIf_st (c : Bool) : (s.skipIf c).st = s.st := rfl
@[simp] theorem State.skipIf_keys (c : Bool) : (s.skipIf c).keys = s.keys := rfl
@[simp] theorem State.skipIf_renderRequest (c : Bool) : (s.skipIf c).renderRequest = s.renderRequest := rfl
@[simp] theorem State.skipIf_soundAlert (c : Bool) : (s.skipIf c).soundAlert = s.soundAlert := rfl
@[simp] theorem State.skipIf_rand (c : Bool) : (s.skipIf c).rand = s.rand := rfl
@[simp] theorem State.skipIf_draws (c : Bool) : (s.skipIf c).draws = s.draws := rfl
@[simp] theorem State.skipIf_queue (c : Bool) : (s.skipIf c).queue = s.queue := rfl
@[simp] theorem State.skipIf_schedule (c : Bool) : (s.skipIf c).schedule = s.schedule := rfl
@[simp] theorem State.skipIf_getV (c : Bool) (q : Nibble) : (s.skipIf c).getV q = s.getV q := rfl
@[simp] theorem State.skipIf_readByte (c : Bool) (a : Nat) : (s.skipIf c).readByte a = s.readByte a := rfl

end Sys2Proof.Machine
end

