-- ==== Sys2Proof/Laws/Memory.lean ====
section
/-! SUPPORT. Reading after writing, and the canonical form of memory, once for every memory operation. -/

namespace Sys2Proof.Machine

variable (font : Vector Byte 80) (m : List Host.Cell)

theorem Memory.read_cons (c : Host.Cell) (a : Nat) :
    Memory.read font (c :: m) a = if c.1 = a then c.2 else Memory.read font m a := by
  by_cases h : c.1 = a <;> simp [Memory.read, h]

theorem Memory.read_nil (a : Nat) : Memory.read font [] a = Memory.unlisted font a := rfl

theorem Memory.read_filter_ne (a a' : Nat) (h : a' ≠ a) :
    Memory.read font (m.filter (fun c => c.1 != a)) a' = Memory.read font m a' := by
  induction m with
  | nil => rfl
  | cons c m ih =>
    by_cases hc : c.1 = a
    · have : c.1 ≠ a' := fun h' => h (h'.symm.trans hc)
      simp [hc, Memory.read_cons, ih, Ne.symm h]
    · simp [hc, Memory.read_cons, ih]

theorem Memory.read_filter_same (a : Nat) :
    Memory.read font (m.filter (fun c => c.1 != a)) a = Memory.unlisted font a := by
  induction m with
  | nil => rfl
  | cons c m ih => by_cases hc : c.1 = a <;> simp [hc, Memory.read_cons, ih]

theorem Memory.read_insert (a a' : Nat) (b : Byte) (h : ∀ c ∈ m, c.1 ≠ a) :
    Memory.read font (Memory.insert a b m) a' = if a' = a then b else Memory.read font m a' := by
  induction m with
  | nil => simp [Memory.insert, Memory.read_cons, eq_comm]
  | cons c m ih =>
    have hc : c.1 ≠ a := h c (by simp)
    have ih := ih (fun d hd => h d (by simp [hd]))
    by_cases hlt : a < c.1
    · simp [Memory.insert, hlt, Memory.read_cons, eq_comm]
    · by_cases ha : a' = a
      · subst ha
        simp [Memory.insert, hlt, Memory.read_cons, ih, hc]
      · simp [Memory.insert, hlt, Memory.read_cons, ih, ha]

/-- A read after a write gives the value written at that address and the old value at every other one. -/
theorem Memory.read_write (a a' : Nat) (b : Byte) :
    Memory.read font (Memory.write font m a b) a' = if a' = a then b else Memory.read font m a' := by
  have hne : ∀ c ∈ m.filter (fun c => c.1 != a), c.1 ≠ a := by
    intro c hc
    simpa using (List.mem_filter.mp hc).2
  by_cases hb : b = Memory.unlisted font a
  · by_cases ha : a' = a
    · simp [Memory.write, hb, ha, Memory.read_filter_same]
    · simp [Memory.write, hb, ha, Memory.read_filter_ne]
  · by_cases ha : a' = a
    · simp [Memory.write, hb, ha, Memory.read_insert _ _ _ _ _ hne]
    · simp [Memory.write, hb, ha, Memory.read_insert _ _ _ _ _ hne, Memory.read_filter_ne]

theorem Memory.mem_insert (a : Nat) (b : Byte) (c : Host.Cell) :
    c ∈ Memory.insert a b m ↔ c = (a, b) ∨ c ∈ m := by
  induction m with
  | nil => simp [Memory.insert]
  | cons d m ih =>
    by_cases h : a < d.1
    · simp [Memory.insert, h]
    · simp only [Memory.insert, h, if_false, List.mem_cons, ih]
      tauto

theorem Memory.pairwise_insert (a : Nat) (b : Byte) (hm : m.Pairwise (fun c d => c.1 < d.1))
    (h : ∀ c ∈ m, c.1 ≠ a) : (Memory.insert a b m).Pairwise (fun c d => c.1 < d.1) := by
  induction m with
  | nil => simp [Memory.insert]
  | cons c m ih =>
    obtain ⟨hc, hm⟩ := List.pairwise_cons.mp hm
    have hca : c.1 ≠ a := h c (by simp)
    by_cases hlt : a < c.1
    · simp only [Memory.insert, hlt, if_true, List.pairwise_cons]
      refine ⟨fun d hd => ?_, hc, hm⟩
      rcases List.mem_cons.mp hd with rfl | hd
      · exact hlt
      · exact hlt.trans (hc d hd)
    · simp only [Memory.insert, hlt, if_false, List.pairwise_cons]
      refine ⟨fun d hd => ?_, ih hm (fun d hd => h d (by simp [hd]))⟩
      rcases (Memory.mem_insert m a b d).mp hd with rfl | hd
      · show c.1 < a
        omega
      · exact hc d hd

/-- Every write inside the address space keeps the canonical form. -/
theorem Memory.wf_write (a : Nat) (b : Byte) (ha : a < memSize) (hm : Memory.wf font m) :
    Memory.wf font (Memory.write font m a b) := by
  obtain ⟨hs, hv⟩ := hm
  have hs' : (m.filter (fun c => c.1 != a)).Pairwise (fun c d => c.1 < d.1) := hs.filter _
  have hv' : ∀ c ∈ m.filter (fun c => c.1 != a), c.1 < memSize ∧ c.2 ≠ Memory.unlisted font c.1 :=
    fun c hc => hv c (List.mem_filter.mp hc).1
  by_cases hb : b = Memory.unlisted font a
  · simpa only [Memory.write, hb, if_true] using And.intro hs' hv'
  · simp only [Memory.write, hb, if_false]
    refine ⟨Memory.pairwise_insert _ _ _ hs' fun c hc => ?_, fun c hc => ?_⟩
    · simpa using (List.mem_filter.mp hc).2
    · rcases (Memory.mem_insert _ _ _ _).mp hc with rfl | hc
      · exact ⟨ha, hb⟩
      · exact hv' c hc

variable (s : State)

theorem State.readByte_writeByte (a a' : Nat) (b : Byte) :
    (s.writeByte a b).readByte a' = if a' = a then b else s.readByte a' :=
  Memory.read_write s.cfg.font s.mem a a' b

/-- A run of stores touches memory only. -/
theorem State.writeBytes_eq (bs : List Byte) (base : Nat) :
    s.writeBytes base bs = { s with mem := (s.writeBytes base bs).mem } := by
  induction bs generalizing s base with
  | nil => rfl
  | cons b bs ih => rw [State.writeBytes, ih]; rfl

theorem State.writeBytes_cfg (bs : List Byte) (base : Nat) : (s.writeBytes base bs).cfg = s.cfg := by
  rw [State.writeBytes_eq]

/-- Reading after a run of stores: the stored bytes in their range, the old bytes outside it. -/
theorem State.readByte_writeBytes (bs : List Byte) (base a : Nat) :
    (s.writeBytes base bs).readByte a =
      if base ≤ a ∧ a < base + bs.length then bs.getD (a - base) 0 else s.readByte a := by
  induction bs generalizing s base with
  | nil =>
    have h : ¬ (base ≤ a ∧ a < base + ([] : List Byte).length) := by simp
    rw [if_neg h, State.writeBytes]
  | cons b bs ih =>
    rw [State.writeBytes, ih, State.readByte_writeByte]
    by_cases h1 : a = base
    · subst h1
      simp
    · by_cases h2 : base + 1 ≤ a ∧ a < base + 1 + bs.length
      · have h3 : base ≤ a ∧ a < base + (b :: bs).length := by simp; omega
        rw [if_pos h2, if_pos h3]
        obtain ⟨k, hk⟩ : ∃ k, a - base = k + 1 := ⟨a - base - 1, by omega⟩
        rw [hk, List.getD_cons_succ]
        congr 1
        omega
      · have h3 : ¬ (base ≤ a ∧ a < base + (b :: bs).length) := by simp; omega
        simp only [h1, h2, h3, if_false]

/-- A run of stores inside the address space keeps the canonical form. -/
theorem State.wf_writeBytes (bs : List Byte) (base : Nat) (hb : base + bs.length ≤ memSize)
    (hm : Memory.wf s.cfg.font s.mem) : Memory.wf s.cfg.font (s.writeBytes base bs).mem := by
  induction bs generalizing s base with
  | nil => exact hm
  | cons b bs ih =>
    simp only [List.length_cons] at hb
    exact ih (s.writeByte base b) (base + 1) (by omega)
      (Memory.wf_write _ _ _ _ (by omega) hm)

@[simp] theorem State.length_readBytes (base len : Nat) : (s.readBytes base len).length = len := by
  induction len generalizing base with
  | zero => rfl
  | succ len ih => simp [State.readBytes, ih]

/-- The k-th byte of a run of loads is the byte at `base + k`. -/
theorem State.getElem?_readBytes (base len k : Nat) (h : k < len) :
    (s.readBytes base len)[k]? = some (s.readByte (base + k)) := by
  induction len generalizing base k with
  | zero => omega
  | succ len ih =>
    cases k with
    | zero => simp [State.readBytes]
    | succ k =>
      have := ih (base + 1) k (by omega)
      simp only [State.readBytes, List.getElem?_cons_succ, this]
      congr 2
      omega

/-- A run of accesses is out of bounds exactly where its last address is, and the first bad address is reported. -/
theorem firstOutOfBounds_eq (base len : Nat) :
    firstOutOfBounds base len =
      if len = 0 ∨ base + len ≤ memSize then none else some (max base memSize) := by
  induction len generalizing base with
  | zero => simp [firstOutOfBounds]
  | succ len ih =>
    by_cases h : memSize ≤ base
    · have h2 : ¬ (base + (len + 1) ≤ memSize) := by omega
      simp [firstOutOfBounds, h, h2]
    · rw [firstOutOfBounds, if_neg h, ih]
      by_cases h2 : base + (len + 1) ≤ memSize
      · have h3 : base + 1 + len ≤ memSize := by omega
        simp [h2, h3]
      · have h3 : ¬ (base + 1 + len ≤ memSize) := by omega
        by_cases h4 : len = 0
        · subst h4
          omega
        · have h5 : max (base + 1) memSize = max base memSize := by omega
          simp [h2, h3, h4, h5]

/-- An access that fits has its effect. -/
theorem guardRange_of_fits (base len : Nat) (effect : Result) (h : len = 0 ∨ base + len ≤ memSize) :
    guardRange base len effect = effect := by
  simp [guardRange, firstOutOfBounds_eq, h]

/-- An access that does not fit faults with the first address out of range. -/
theorem guardRange_of_not_fits (base len : Nat) (effect : Result) (h0 : len ≠ 0) (h : memSize < base + len) :
    guardRange base len effect = .fault (.outOfBounds (max base memSize)) := by
  have h1 : ¬ (base + len ≤ memSize) := by omega
  simp [guardRange, firstOutOfBounds_eq, h0, h1, raise]

end Sys2Proof.Machine
end

