-- ==== Sys2Proof/Laws/Ops.lean ====
section
/-! SUPPORT. One lemma per shared operation over registers, stack, framebuffer and inputs: everything it can do. -/

namespace Sys2Proof.Machine

variable (s : State)

/-! ### Registers -/

theorem State.getV_setV (r q : Nibble) (b : Byte) : (s.setV r b).getV q = if q = r then b else s.getV q := by
  by_cases h : q = r
  · subst h; simp [State.getV, State.setV]
  · have : r.toNat ≠ q.toNat := fun h' => h (BitVec.eq_of_toNat_eq h'.symm)
    simp [State.getV, State.setV, this, h]

@[simp] theorem State.getV_setV_same (r : Nibble) (b : Byte) : (s.setV r b).getV r = b := by
  simp [State.getV_setV]

/-- Registers are their readings. -/
theorem State.v_ext {s t : State} (h : ∀ r, t.getV r = s.getV r) : t.v = s.v := by
  apply Vector.ext
  intro k hk
  have := h (BitVec.ofNat 4 k)
  have hk' : k % 16 = k := Nat.mod_eq_of_lt hk
  simpa [State.getV, hk'] using this

/-- `WriteResultAndFlag`, read back: the flag wins in VF under `flag_last`, the result under `result_last`. -/
theorem State.getV_writeResultAndFlag (x q : Nibble) (r : Nat) (f : Byte) :
    (s.writeResultAndFlag x r f).getV q =
      match s.cfg.vfWriteOrder with
      | .flagLast => if q = flagIndex then f else if q = x then BitVec.ofNat 8 r else s.getV q
      | .resultLast => if q = x then BitVec.ofNat 8 r else if q = flagIndex then f else s.getV q := by
  cases h : s.cfg.vfWriteOrder <;> simp [State.writeResultAndFlag, h, State.getV_setV]

/-- `WriteResultAndFlag` writes registers only. -/
theorem State.writeResultAndFlag_eq (x : Nibble) (r : Nat) (f : Byte) :
    s.writeResultAndFlag x r f = { s with v := (s.writeResultAndFlag x r f).v } := by
  cases h : s.cfg.vfWriteOrder <;> simp [State.writeResultAndFlag, h, State.setV]

/-- The logic instructions write registers only. -/
theorem State.writeLogic_eq (x : Nibble) (r : Byte) :
    s.writeLogic x r = { s with v := (s.writeLogic x r).v } := by
  unfold State.writeLogic
  split
  · exact State.writeResultAndFlag_eq s x _ _
  · rfl

/-- A run of register writes touches registers only. -/
theorem State.setRegistersFrom_eq (bs : List Byte) (k : Nat) :
    s.setRegistersFrom k bs = { s with v := (s.setRegistersFrom k bs).v } := by
  induction bs generalizing s k with
  | nil => rfl
  | cons b bs ih => rw [State.setRegistersFrom, ih]; rfl

/-- A run of register writes, read back. -/
theorem State.getV_setRegistersFrom (bs : List Byte) (k : Nat) (q : Nibble) (h : k + bs.length ≤ 16) :
    (s.setRegistersFrom k bs).getV q =
      if k ≤ q.toNat ∧ q.toNat < k + bs.length then bs.getD (q.toNat - k) 0 else s.getV q := by
  induction bs generalizing s k with
  | nil =>
    have : ¬ (k ≤ q.toNat ∧ q.toNat < k + ([] : List Byte).length) := by simp
    rw [if_neg this]
    rfl
  | cons b bs ih =>
    simp only [List.length_cons] at h
    rw [State.setRegistersFrom, ih _ _ (by omega), State.getV_setV]
    have hq : q = BitVec.ofNat 4 k ↔ q.toNat = k := by
      constructor
      · rintro rfl
        simp
        omega
      · intro hk
        apply BitVec.eq_of_toNat_eq
        simp
        omega
    by_cases h1 : q.toNat = k
    · have h2 : ¬ (k + 1 ≤ q.toNat ∧ q.toNat < k + 1 + bs.length) := by omega
      have h3 : k ≤ q.toNat ∧ q.toNat < k + (b :: bs).length := by simp; omega
      rw [if_neg h2, if_pos h3, if_pos (hq.mpr h1)]
      simp [h1]
    · rw [if_neg (fun hc => h1 (hq.mp hc))]
      by_cases h2 : k + 1 ≤ q.toNat ∧ q.toNat < k + 1 + bs.length
      · have h3 : k ≤ q.toNat ∧ q.toNat < k + (b :: bs).length := by simp; omega
        rw [if_pos h2, if_pos h3]
        obtain ⟨j, hj⟩ : ∃ j, q.toNat - k = j + 1 := ⟨q.toNat - k - 1, by omega⟩
        rw [hj, List.getD_cons_succ]
        congr 1
        omega
      · have h3 : ¬ (k ≤ q.toNat ∧ q.toNat < k + (b :: bs).length) := by simp; omega
        rw [if_neg h2, if_neg h3]

@[simp] theorem State.length_lowRegisters (n : Nat) : (s.lowRegisters n).length = n := by
  simp [State.lowRegisters]

theorem State.getD_lowRegisters (n k : Nat) (h : k < n) :
    (s.lowRegisters n).getD k 0 = s.getV (BitVec.ofNat 4 k) := by
  simp [State.lowRegisters, List.getD, h]

/-! ### The stack -/

theorem State.pushAndJump_of_room (target : Word) (h : s.stackFull = false) :
    s.pushAndJump target = .next ((s.pushed (s.ip + 2)).setIp target) := by
  simp [State.pushAndJump, h]

theorem State.pushAndJump_of_full (target : Word) (h : s.stackFull = true) :
    s.pushAndJump target = .fault .stackOverflow := by
  simp [State.pushAndJump, h, raise]

/-- Everything a push and jump can answer. -/
theorem State.pushAndJump_cases (target : Word) :
    (s.stackFull = false ∧ s.pushAndJump target = .next ((s.pushed (s.ip + 2)).setIp target)) ∨
      (s.stackFull = true ∧ s.pushAndJump target = .fault .stackOverflow) := by
  cases h : s.stackFull
  · exact .inl ⟨rfl, s.pushAndJump_of_room target h⟩
  · exact .inr ⟨rfl, s.pushAndJump_of_full target h⟩

/-! ### The framebuffer -/

theorem Frame.pixel_eq (fb : Frame) (x y : Nat) (hx : x < 64) (hy : y < 32) : Frame.pixel fb x y = fb[x][y] := by
  simp [Frame.pixel, hx, hy]

/-- Outside the screen every pixel reads off. -/
theorem Frame.pixel_off_screen (fb : Frame) (x y : Nat) (h : 64 ≤ x ∨ 32 ≤ y) : Frame.pixel fb x y = false := by
  by_cases hx : x < 64
  · have hy : ¬ y < 32 := by omega
    simp [Frame.pixel, hx, hy]
  · simp [Frame.pixel, hx]

/-- A pixel after a set: the new value at that place if it is on the screen, the old one everywhere else. -/
theorem Frame.pixel_setPixel (fb : Frame) (x y x' y' : Nat) (b : Bool) :
    Frame.pixel (Frame.setPixel fb x y b) x' y' =
      if x' = x ∧ y' = y ∧ x < 64 ∧ y < 32 then b else Frame.pixel fb x' y' := by
  by_cases hx : x < 64
  · by_cases hy : y < 32
    · by_cases hx' : x' < 64
      · by_cases hy' : y' < 32
        · rw [Frame.pixel_eq _ _ _ hx' hy', Frame.pixel_eq _ _ _ hx' hy']
          simp only [Frame.setPixel, hx, hy, dite_true]
          by_cases h1 : x' = x
          · subst h1
            by_cases h2 : y' = y
            · subst h2; simp
            · simp [Ne.symm h2, h2]
          · simp [Ne.symm h1, h1]
        · have : y' ≠ y := by omega
          simp [Frame.pixel_off_screen _ x' y' (by omega), this]
      · have : x' ≠ x := by omega
        simp [Frame.pixel_off_screen _ x' y' (by omega), this]
    · simp [Frame.setPixel, hx, hy]
  · simp [Frame.setPixel, hx]

@[simp] theorem Frame.pixel_blank (x y : Nat) : Frame.pixel Frame.blank x y = false := by
  by_cases h : x < 64 ∧ y < 32
  · rw [Frame.pixel_eq _ _ _ h.1 h.2]; simp [Frame.blank]
  · exact Frame.pixel_off_screen _ _ _ (by omega)

/-! ### Inputs and free values -/

/-- A draw uses up either the host's next draw or one free value, and changes nothing else. -/
theorem State.randomByte_cases :
    (∃ b bs, s.rand = b :: bs ∧ s.randomByte = (b, { s with rand := bs })) ∨
      (s.rand = [] ∧ s.randomByte = (Config.randomByte s.draws, { s with draws := s.draws + 1 })) := by
  cases h : s.rand with
  | nil => exact .inr ⟨rfl, by simp [State.randomByte, h]⟩
  | cons b bs => exact .inl ⟨b, bs, rfl, by simp [State.randomByte, h]⟩

theorem State.mem_pressedKeys (k : Nat) : k ∈ s.pressedKeys ↔ k < 16 ∧ s.keyDown k = true := by
  simp [State.pressedKeys]

/-- The chosen key is one of the set. -/
theorem State.chooseKey_mem (k : Nat) (ks : List Nat) : s.chooseKey k ks ∈ k :: ks := by
  cases ks with
  | nil => simp [State.chooseKey]
  | cons k' ks =>
    have h : Config.keyChoice s.draws % (k :: k' :: ks).length < (k :: k' :: ks).length :=
      Nat.mod_lt _ (by simp)
    simp only [State.chooseKey, List.getD, List.getElem?_eq_getElem h, Option.getD_some]
    exact List.getElem_mem h

/-- A key operand is used up to 15 and faults above. -/
theorem State.withKeyOperand_cases (x : Nibble) (use : Nat → Result) :
    ((s.getV x).toNat ≤ 15 ∧ s.withKeyOperand x use = use (s.getV x).toNat) ∨
      (15 < (s.getV x).toNat ∧ s.withKeyOperand x use = .fault (.keyOutOfRange (s.getV x))) := by
  by_cases h : 15 < (s.getV x).toNat
  · exact .inr ⟨h, by simp [State.withKeyOperand, h, raise]⟩
  · exact .inl ⟨by omega, by simp [State.withKeyOperand, h]⟩

end Sys2Proof.Machine
end

