-- ==== Sys2Proof/Laws/Cycle.lean ====
section
/-! SUPPORT. What a fetch, a command, a transition of the machine and a run can do, said once each
(30_encoding.md R80, 60_exceptions.md R219, R220, R226). -/

namespace Sys2Proof.Machine

variable (s : State)

/-! ### The fetch -/

theorem State.fetchWord_of_fits (h : s.ip.toNat ≤ 4094) :
    s.fetchWord = .ok (s.readByte s.ip.toNat ++ s.readByte (s.ip.toNat + 1)) := by
  have : s.ip.toNat + 2 ≤ memSize := by unfold memSize; omega
  simp [State.fetchWord, firstOutOfBounds_eq, this, Word.ofBytes]

theorem State.fetchWord_of_not_fits (h : 4094 < s.ip.toNat) :
    s.fetchWord = .error (.outOfBounds (max s.ip.toNat 4096)) := by
  have : ¬ (2 = 0 ∨ s.ip.toNat + 2 ≤ memSize) := by unfold memSize; omega
  simp only [State.fetchWord, firstOutOfBounds_eq, if_neg this]
  rfl

/-- A fetched instruction: the mode is `loaded`, both bytes are in memory, and their word decodes to it. -/
theorem State.fetchInstr_eq_ok {s : State} {i : Instr} (h : s.fetchInstr = .ok i) :
    s.mode = .loaded ∧ s.ip.toNat ≤ 4094 ∧
      lookupByOpcode s.cfg.sysPresent (s.readByte s.ip.toNat ++ s.readByte (s.ip.toNat + 1)) = some i := by
  unfold State.fetchInstr at h
  cases hm : s.mode <;> simp only [hm] at h
  · cases h
  · by_cases hip : s.ip.toNat ≤ 4094
    · rw [s.fetchWord_of_fits hip] at h
      simp only at h
      refine ⟨rfl, hip, ?_⟩
      split at h <;> cases h
      assumption
    · rw [s.fetchWord_of_not_fits (by omega)] at h; cases h

/-- An instruction step that goes on: the instruction fetched, executed with the render pulse low. -/
theorem stepInstruction_eq_next {s t : State} (h : stepInstruction s = .next t) :
    ∃ i, s.fetchInstr = .ok i ∧ exec i s.lowerRender = .next t := by
  unfold stepInstruction at h
  split at h
  · cases h
  · exact ⟨_, ‹_›, h⟩

/-! ### Commands -/

/-- Every command but `step` is done, and a refused one changes nothing. -/
theorem perform_of_ne_step (c : Command) (hc : c ≠ .step) :
    ∃ t r, perform c s = .done t r ∧ (r = .refused → t = s) := by
  cases c <;> simp_all [perform, doneOrRefused] <;> split <;> simp

/-- No command but the machine's own taking-off changes what is pending, and none but the step changes the schedule. -/
theorem perform_keeps_queue_schedule {c : Command} (hc : c ≠ .step) {t : State} {r : Reply}
    (h : perform c s = .done t r) : t.queue = s.queue ∧ t.schedule = s.schedule := by
  cases c <;> simp only [perform, doneOrRefused] at h
  case step => exact absurd rfl hc
  case load bytes =>
    split at h <;> cases h
    · rename_i hl
      unfold State.load at hl
      split at hl <;> cases hl
      rw [State.writeBytes_eq]; exact ⟨rfl, rfl⟩
    · exact ⟨rfl, rfl⟩
  case tick => cases h; unfold State.tick; split <;> exact ⟨rfl, rfl⟩
  case setRegister a b =>
    split at h <;> cases h
    · rename_i hl
      unfold State.hostSetRegister at hl
      split at hl <;> cases hl
      exact ⟨rfl, rfl⟩
    · exact ⟨rfl, rfl⟩
  case setIp a =>
    split at h <;> cases h
    · rename_i hl
      unfold State.hostSetIp at hl
      split at hl <;> cases hl
      exact ⟨rfl, rfl⟩
    · exact ⟨rfl, rfl⟩
  case getRegister a => split at h <;> cases h <;> exact ⟨rfl, rfl⟩
  all_goals (cases h; exact ⟨rfl, rfl⟩)

/-! ### The transition -/

/-- Everything a transition that goes on can be: the run loop's tick, the run loop's instruction step, a step command, or
another command. -/
theorem step_eq_next {s t : State} (h : step s = .next t) :
    (s.queue = [] ∧ s.tickIsNext = true ∧ t = s.tick.setSchedule s.schedule.countTick) ∨
    (s.queue = [] ∧ s.tickIsNext = false ∧ stepInstruction (s.setSchedule s.schedule.countStep) = .next t) ∨
    (∃ cs, s.queue = .step :: cs ∧ stepInstruction (s.setQueue cs) = .next t) ∨
    (∃ c cs r, s.queue = c :: cs ∧ c ≠ .step ∧ perform c (s.setQueue cs) = .done t r) := by
  unfold step runNext at h
  split at h
  · rename_i hq
    unfold runLoopStep at h
    cases ht : s.tickIsNext <;> simp only [ht] at h
    · exact .inr (.inl ⟨hq, rfl, h⟩)
    · cases h; exact .inl ⟨hq, rfl, rfl⟩
  · exact .inr (.inr (.inl ⟨_, ‹_›, h⟩))
  · rename_i c cs hc hq
    obtain ⟨u, r, hp, -⟩ := perform_of_ne_step (s.setQueue cs) c (fun hs => hc hs)
    rw [hp] at h
    cases h
    exact .inr (.inr (.inr ⟨c, cs, r, hq, fun hs => hc hs, hp⟩))

/-! ### The schedule -/

theorem Schedule.countStep_steps (c : Schedule) : c.countStep.steps = c.steps + 1 := rfl

theorem Schedule.countStep_round (c : Schedule) : c.countStep.round = c.round := rfl

/-- The tick is due exactly where the round has had more steps than its free value. -/
theorem Schedule.tickDue_iff (c : Schedule) : c.tickDue = true ↔ Config.stepsBeforeTick c.round < c.steps := by
  unfold Schedule.tickDue
  split <;> simp_all

/-- A tick counted: another tick of the same round, or the next round, where no tick is due. -/
theorem Schedule.countTick_cases (c : Schedule) :
    (c.ticks < Config.ticksBeforeStep c.round ∧ c.countTick = { c with ticks := c.ticks + 1 }) ∨
      (Config.ticksBeforeStep c.round ≤ c.ticks ∧ c.countTick.tickDue = false) := by
  by_cases h : c.ticks < Config.ticksBeforeStep c.round
  · exact .inl ⟨h, by simp [Schedule.countTick, h]⟩
  · exact .inr ⟨by omega, by simp [Schedule.countTick, h, Schedule.tickDue]⟩

theorem State.tickIsNext_of_loaded (h : s.mode = .loaded) : s.tickIsNext = s.schedule.tickDue := by
  simp [State.tickIsNext, h]

/-! ### Runs -/

/-- A run that begins with a transition that goes on. -/
theorem run_succ_of_next {s t : State} (h : step s = .next t) (k : Nat) : core.run (k + 1) s = core.run k t := by
  have h' : core.step s = .next t := h
  simp only [Host.Core.run, h']

/-- A run that begins with a fault. -/
theorem run_succ_of_fault {s : State} {f : Fault} (h : step s = .fault f) (k : Nat) :
    core.run (k + 1) s = .fault f := by
  have h' : core.step s = .fault f := h
  simp only [Host.Core.run, h']

/-- A run in two parts. -/
theorem run_add {s t : State} {n : Nat} (h : core.run n s = .next t) (k : Nat) :
    core.run (n + k) s = core.run k t := by
  induction n generalizing s with
  | zero => cases h; rw [Nat.zero_add]
  | succ n ih =>
    rw [Nat.succ_add]
    simp only [Host.Core.run] at h ⊢
    split at h
    · exact ih h
    · cases h
    · cases h

end Sys2Proof.Machine
end

