-- ==== Sys2Proof/Laws/Decode.lean ====
section
/-! SUPPORT. The catalog's invariants (30_encoding.md R74, R76) and the operand bits of each layout. -/

namespace Sys2Proof

/-- The catalog stands in descending specificity (R75). -/
theorem catalog_descending (sysPresent : Bool) :
    (catalog sysPresent).Pairwise (fun m n => n.specificity ≤ m.specificity) := by
  cases sysPresent <;> decide

/-- "`fixed-value & ~mask == 0`" (R74). -/
theorem Mnemonic.fixed_within_mask (m : Mnemonic) : m.fixed &&& ~~~m.mask = 0 := by
  cases m <;> decide

/-- The same invariant, read on the mask itself. -/
theorem Mnemonic.fixed_and_mask (m : Mnemonic) : m.fixed &&& m.mask = m.fixed := by
  cases m <;> decide

/-- "two entries may never have identical (mask, fixed-value) pairs" (R74). -/
theorem Mnemonic.pair_injective (m n : Mnemonic) (h : m.mask = n.mask ∧ m.fixed = n.fixed) : m = n := by
  revert h
  cases m <;> cases n <;> decide

/-- A word that two entries match agrees with both fixed values on the bits both masks fix (R76). -/
theorem Mnemonic.matches_agree (m n : Mnemonic) (op : Word) (hm : m.matchesWord op = true)
    (hn : n.matchesWord op = true) : m.fixed &&& n.mask = n.fixed &&& m.mask := by
  simp only [Mnemonic.matchesWord, beq_iff_eq] at hm hn
  rw [← hm, ← hn, BitVec.and_assoc, BitVec.and_assoc, BitVec.and_comm m.mask]

/-- The only overlapping entries are `sys` with `cls` and with `ret` (R76). -/
theorem Mnemonic.eq_of_agree (m n : Mnemonic) (h : m.fixed &&& n.mask = n.fixed &&& m.mask) :
    m = n ∨ (m = .sys ∧ (n = .cls ∨ n = .ret)) ∨ (n = .sys ∧ (m = .cls ∨ m = .ret)) := by
  revert h
  cases m <;> cases n <;> decide

/-- Two different entries that match one word are `sys` and one of `cls`, `ret` (R76). -/
theorem Mnemonic.eq_of_matches (m n : Mnemonic) (op : Word) (hm : m.matchesWord op = true)
    (hn : n.matchesWord op = true) :
    m = n ∨ (m = .sys ∧ (n = .cls ∨ n = .ret)) ∨ (n = .sys ∧ (m = .cls ∨ m = .ret)) :=
  Mnemonic.eq_of_agree m n (Mnemonic.matches_agree m n op hm hn)

/-! ### Operand bits stay outside the masks -/

theorem nibbleX_and_mask (x : Nibble) : (x.setWidth 16 <<< 8 : Word) &&& 0xF0FF = 0 := by
  revert x; decide

theorem nibbleX_and_regReg (x : Nibble) : (x.setWidth 16 <<< 8 : Word) &&& 0xF00F = 0 := by
  revert x; decide

theorem nibbleX_and_top (x : Nibble) : (x.setWidth 16 <<< 8 : Word) &&& 0xF000 = 0 := by
  revert x; decide

theorem nibbleY_and_regReg (y : Nibble) : (y.setWidth 16 <<< 4 : Word) &&& 0xF00F = 0 := by
  revert y; decide

theorem nibbleY_and_top (y : Nibble) : (y.setWidth 16 <<< 4 : Word) &&& 0xF000 = 0 := by
  revert y; decide

theorem nibbleN_and_top (n : Nibble) : (n.setWidth 16 : Word) &&& 0xF000 = 0 := by
  revert n; decide

theorem byte_and_top (kk : Byte) : (kk.setWidth 16 : Word) &&& 0xF000 = 0 := by
  revert kk; decide

theorem addr_and_top (nnn : Addr12) : (nnn.setWidth 16 : Word) &&& 0xF000 = 0 := by
  apply BitVec.eq_of_getLsbD_eq
  intro k hk
  have hmask : ∀ j < 16, (0xF000 : Word).getLsbD j = true → 12 ≤ j := by decide
  rw [BitVec.getLsbD_and, BitVec.getLsbD_setWidth]
  cases h : (0xF000 : Word).getLsbD k with
  | false => simp
  | true => simp [BitVec.getLsbD_of_ge nnn k (hmask k hk h)]

theorem or_and_distrib (a b m : Word) : (a ||| b) &&& m = (a &&& m) ||| (b &&& m) := by
  ext k hk
  simp [Bool.and_or_distrib_right]

/-- An instruction's operand bits are outside its entry's mask (R72). -/
theorem Instr.operandBits_and_mask (i : Instr) : i.operandBits &&& i.mnemonic.mask = 0 := by
  cases i <;>
    simp only [Instr.operandBits, Instr.mnemonic, Mnemonic.mask, Mnemonic.layout, Layout.mask, or_and_distrib,
      nibbleX_and_mask, nibbleX_and_regReg, nibbleX_and_top, nibbleY_and_regReg, nibbleY_and_top, nibbleN_and_top,
      byte_and_top, addr_and_top] <;> rfl

end Sys2Proof
end

