-- ==== Sys2Proof/Laws/Draw.lean ====
section
/-! SUPPORT. Everything drawing a sprite does to a framebuffer (42_display.md R161, R162): each pixel is XORed with the
sprite's bit there, and a collision is a set sprite bit over a pixel that was on. -/

namespace Sys2Proof.Machine

/-- Exclusive or of two excluding conditions. -/
theorem xor_decide_of_disjoint {p q r : Prop} [Decidable p] [Decidable q] [Decidable r] (h : r ↔ p ∨ q)
    (hd : ¬ (p ∧ q)) : (decide p ^^ decide q) = decide r := by
  by_cases hp : p <;> by_cases hq : q <;> simp_all

/-- A sprite bit inverts its own pixel, if it is on the screen. -/
theorem pixel_drawBit (x y px py : Nat) (acc : Frame × Bool) :
    Frame.pixel (drawBit x y acc).1 px py =
      (Frame.pixel acc.1 px py ^^ decide (px = x ∧ py = y ∧ x < 64 ∧ y < 32)) := by
  by_cases h : px = x ∧ py = y ∧ x < 64 ∧ y < 32
  · obtain ⟨rfl, rfl, h1, h2⟩ := h
    simp [drawBit, Frame.pixel_setPixel, h1, h2]
  · simp [drawBit, Frame.pixel_setPixel, h]

/-- The bits of one row that lie in `bs`, drawn: pixels. -/
theorem pixel_drawRow (x0 y : Nat) (row : Byte) (bs : List Nat) (hbs : bs.Nodup) (acc : Frame × Bool) (px py : Nat) :
    Frame.pixel (drawRow x0 y row bs acc).1 px py =
      (Frame.pixel acc.1 px py ^^
        decide (py = y ∧ px < 64 ∧ py < 32 ∧ ∃ b ∈ bs, px = x0 + b ∧ row.getLsbD (7 - b) = true)) := by
  induction bs generalizing acc with
  | nil => simp [drawRow]
  | cons b bs ih =>
    obtain ⟨hb, hbs⟩ := List.nodup_cons.mp hbs
    rw [drawRow, ih hbs]
    by_cases hbit : row.getLsbD (7 - b) = true
    · rw [if_pos hbit, pixel_drawBit, Bool.xor_assoc]
      congr 1
      by_cases hpx : px = x0 + b
      · by_cases hpy : py = y <;> simp [hpx, hpy, hbit, hb]
      · simp [hpx, hbit]
    · rw [if_neg hbit]
      simp [hbit]

/-- The bits of one row that lie in `bs`, drawn: collision. -/
theorem collision_drawRow (x0 y : Nat) (row : Byte) (bs : List Nat) (hbs : bs.Nodup) (acc : Frame × Bool) :
    (drawRow x0 y row bs acc).2 =
      (acc.2 || decide (∃ b ∈ bs, row.getLsbD (7 - b) = true ∧ Frame.pixel acc.1 (x0 + b) y = true)) := by
  induction bs generalizing acc with
  | nil => simp [drawRow]
  | cons b bs ih =>
    obtain ⟨hb, hbs⟩ := List.nodup_cons.mp hbs
    rw [drawRow, ih hbs]
    by_cases hbit : row.getLsbD (7 - b) = true
    · rw [if_pos hbit]
      have hsame : ∀ b' ∈ bs, Frame.pixel (drawBit (x0 + b) y acc).1 (x0 + b') y = Frame.pixel acc.1 (x0 + b') y := by
        intro b' hb'
        have hne : b' ≠ b := fun h => hb (h ▸ hb')
        simp [pixel_drawBit, hne]
      have hex : decide (∃ b' ∈ bs, row.getLsbD (7 - b') = true ∧
            Frame.pixel (drawBit (x0 + b) y acc).1 (x0 + b') y = true) =
          decide (∃ b' ∈ bs, row.getLsbD (7 - b') = true ∧ Frame.pixel acc.1 (x0 + b') y = true) := by
        apply decide_eq_decide.mpr
        constructor <;> rintro ⟨b', hb', h1, h2⟩
        · exact ⟨b', hb', h1, hsame b' hb' ▸ h2⟩
        · exact ⟨b', hb', h1, (hsame b' hb').symm ▸ h2⟩
      rw [hex]
      simp [drawBit, hbit, Bool.or_assoc]
    · rw [if_neg hbit]
      simp [hbit]

/-- The sprite bit at a place: row `py - y`, bit `7 - (px - x0)` of it, bit 7 leftmost. -/
abbrev spriteAt (x0 y : Nat) (rows : List Byte) (px py : Nat) : Prop :=
  x0 ≤ px ∧ px < x0 + 8 ∧ y ≤ py ∧ py < y + rows.length ∧ (rows.getD (py - y) 0).getLsbD (7 - (px - x0)) = true

/-- The first row of a sprite and the others. -/
theorem spriteAt_cons (x0 y : Nat) (row : Byte) (rows : List Byte) (px py : Nat) :
    spriteAt x0 y (row :: rows) px py ↔
      (py = y ∧ ∃ b ∈ List.range 8, px = x0 + b ∧ row.getLsbD (7 - b) = true) ∨
        spriteAt x0 (y + 1) rows px py := by
  simp only [spriteAt, List.length_cons, List.mem_range]
  constructor
  · rintro ⟨h1, h2, h3, h4, h5⟩
    by_cases hy : py = y
    · subst hy
      refine .inl ⟨rfl, px - x0, by omega, by omega, ?_⟩
      simpa using h5
    · obtain ⟨k, hk⟩ : ∃ k, py - y = k + 1 := ⟨py - y - 1, by omega⟩
      have hk' : py - (y + 1) = k := by omega
      rw [hk, List.getD_cons_succ] at h5
      exact .inr ⟨h1, h2, by omega, by omega, by rw [hk']; exact h5⟩
  · rintro (⟨rfl, b, hb, rfl, hbit⟩ | ⟨h1, h2, h3, h4, h5⟩)
    · refine ⟨by omega, by omega, by omega, by omega, ?_⟩
      have : x0 + b - x0 = b := by omega
      simpa [this] using hbit
    · obtain ⟨k, hk⟩ : ∃ k, py - y = k + 1 := ⟨py - y - 1, by omega⟩
      have hk' : py - (y + 1) = k := by omega
      refine ⟨h1, h2, by omega, by omega, ?_⟩
      rw [hk, List.getD_cons_succ]
      rwa [hk'] at h5

/-- A sprite drawn: every pixel of the screen is XORed with the sprite's bit there. -/
theorem pixel_drawRows (x0 : Nat) (rows : List Byte) (y : Nat) (acc : Frame × Bool) (px py : Nat) :
    Frame.pixel (drawRows x0 y rows acc).1 px py =
      (Frame.pixel acc.1 px py ^^ decide (px < 64 ∧ py < 32 ∧ spriteAt x0 y rows px py)) := by
  induction rows generalizing y acc with
  | nil =>
    have : ¬ spriteAt x0 y [] px py := fun h => by have := h.2.2; simp at this; try omega
    simp [drawRows, this]
  | cons row rows ih =>
    rw [drawRows, ih, pixel_drawRow _ _ _ _ List.nodup_range, Bool.xor_assoc]
    congr 1
    have hiff := spriteAt_cons x0 y row rows px py
    have hexcl : spriteAt x0 (y + 1) rows px py → py ≠ y := fun h => by have := h.2.2.1; omega
    apply xor_decide_of_disjoint
    · constructor
      · rintro ⟨h1, h2, h3⟩
        rcases hiff.mp h3 with ⟨h4, h5⟩ | h4
        · exact .inl ⟨h4, h1, h2, h5⟩
        · exact .inr ⟨h1, h2, h4⟩
      · rintro (⟨h1, h2, h3, h4⟩ | ⟨h1, h2, h3⟩)
        · exact ⟨h2, h3, hiff.mpr (.inl ⟨h1, h4⟩)⟩
        · exact ⟨h1, h2, hiff.mpr (.inr h3)⟩
    · rintro ⟨⟨h1, -⟩, -, -, h2⟩
      exact hexcl h2 h1

/-- A sprite drawn: a collision is a set sprite bit over a pixel that was on. -/
theorem collision_drawRows (x0 : Nat) (rows : List Byte) (y : Nat) (acc : Frame × Bool) :
    (drawRows x0 y rows acc).2 = true ↔
      acc.2 = true ∨ ∃ px py, spriteAt x0 y rows px py ∧ Frame.pixel acc.1 px py = true := by
  induction rows generalizing y acc with
  | nil =>
    have : ∀ px py, ¬ spriteAt x0 y [] px py := fun px py h => by have := h.2.2; simp at this; try omega
    simp [drawRows, this]
  | cons row rows ih =>
    rw [drawRows, ih, collision_drawRow _ _ _ _ List.nodup_range]
    have hsame : ∀ px py, spriteAt x0 (y + 1) rows px py →
        Frame.pixel (drawRow x0 y row (List.range 8) acc).1 px py = Frame.pixel acc.1 px py := by
      intro px py h
      have hne : py ≠ y := by have := h.2.2.1; omega
      simp [pixel_drawRow _ _ _ _ List.nodup_range, hne]
    simp only [Bool.or_eq_true, decide_eq_true_eq]
    constructor
    · rintro ((h | ⟨b, hb, h1, h2⟩) | ⟨px, py, h1, h2⟩)
      · exact .inl h
      · exact .inr ⟨x0 + b, y, (spriteAt_cons ..).mpr (.inl ⟨rfl, b, hb, rfl, h1⟩), h2⟩
      · exact .inr ⟨px, py, (spriteAt_cons ..).mpr (.inr h1), hsame px py h1 ▸ h2⟩
    · rintro (h | ⟨px, py, h1, h2⟩)
      · exact .inl (.inl h)
      · rcases (spriteAt_cons ..).mp h1 with ⟨rfl, b, hb, rfl, hbit⟩ | h1
        · exact .inl (.inr ⟨b, hb, hbit, h2⟩)
        · exact .inr ⟨px, py, h1, (hsame px py h1).symm ▸ h2⟩

end Sys2Proof.Machine
end

