-- ==== Sys2Proof/Laws/Frame.lean ====
section
/-! SUPPORT. The vocabulary of Safety.lean over the shared operations: a frame from a record update, and the registers after
a result and a flag. -/

namespace Sys2Proof.Machine

/-- A state that differs in registers and ip only. -/
theorem onlyChanges_registers_ip (s : State) (v : Vector Byte 16) (w : Word) :
    OnlyChanges [.registers, .ip] s { s with v := v, ip := w } := by
  intro p hp
  cases p <;> simp_all [Part.kept, State.readByte]

/-- A state that differs in ip only. -/
theorem onlyChanges_ip (s : State) (w : Word) : OnlyChanges [.ip] s { s with ip := w } := by
  intro p hp
  cases p <;> simp_all [Part.kept, State.readByte, State.getV]

/-- Naming more parts weakens a frame. -/
theorem OnlyChanges.mono {ps qs : List Part} {s t : State} (h : OnlyChanges ps s t) (hsub : ∀ p ∈ ps, p ∈ qs) :
    OnlyChanges qs s t :=
  fun p hp => h p (fun hq => hp (hsub p hq))

/-- Frames compose. -/
theorem OnlyChanges.trans {ps : List Part} {s t u : State} (h : OnlyChanges ps s t) (h' : OnlyChanges ps t u) :
    OnlyChanges ps s u := by
  intro p hp
  have h1 := h p hp
  have h2 := h' p hp
  cases p <;> simp_all [Part.kept]

/-- The registers after `WriteResultAndFlag` (40_alu.md R100). -/
theorem resultAndFlag_writeResultAndFlag (s : State) (x : Nibble) (r : Nat) (f : Byte) :
    ResultAndFlag x (BitVec.ofNat 8 r) f s (s.writeResultAndFlag x r f).advance := by
  intro q
  rw [State.advance_getV, State.getV_writeResultAndFlag]
  cases s.cfg.vfWriteOrder <;> by_cases h1 : q = x <;> by_cases h2 : q = flagIndex <;> simp_all

/-- `WriteResultAndFlag` and the advance change registers and ip only. -/
theorem onlyChanges_writeResultAndFlag (s : State) (x : Nibble) (r : Nat) (f : Byte) :
    OnlyChanges [.registers, .ip] s (s.writeResultAndFlag x r f).advance := by
  rw [State.writeResultAndFlag_eq]
  exact onlyChanges_registers_ip s _ _

@[simp] theorem State.writeResultAndFlag_ip (s : State) (x : Nibble) (r : Nat) (f : Byte) :
    (s.writeResultAndFlag x r f).ip = s.ip := by
  rw [State.writeResultAndFlag_eq]

end Sys2Proof.Machine
end

