-- ==== Sys2Proof/Laws/PerInstr.lean ====
section
/-! SUPPORT. Facts about every instruction as syntax, one lemma per constructor. Family `Catalog`: the encoding of an
instruction matches its own catalog entry (30_encoding.md R74, R82). -/

namespace Sys2Proof.Laws.Catalog

/-- The encoded word agrees with its entry's fixed value on every bit of the entry's mask. -/
def Statement (i : Sys2Proof.Instr) : Prop :=
  Sys2Proof.encode i &&& i.mnemonic.mask = i.mnemonic.fixed

/-- The fixed value is within the mask and the operand bits are outside it. -/
theorem of_bits (i : Sys2Proof.Instr) : Statement i := by
  unfold Statement Sys2Proof.encode
  rw [Sys2Proof.or_and_distrib, Sys2Proof.Instr.operandBits_and_mask, Sys2Proof.Mnemonic.fixed_and_mask]
  simp

theorem cls : Statement (.cls) := of_bits _
theorem ret : Statement (.ret) := of_bits _
theorem sys (nnn : Addr12) : Statement (.sys nnn) := of_bits _
theorem jmp (nnn : Addr12) : Statement (.jmp nnn) := of_bits _
theorem call (nnn : Addr12) : Statement (.call nnn) := of_bits _
theorem sei (x : Nibble) (kk : Byte) : Statement (.sei x kk) := of_bits _
theorem snei (x : Nibble) (kk : Byte) : Statement (.snei x kk) := of_bits _
theorem se (x y : Nibble) : Statement (.se x y) := of_bits _
theorem li (x : Nibble) (kk : Byte) : Statement (.li x kk) := of_bits _
theorem addi (x : Nibble) (kk : Byte) : Statement (.addi x kk) := of_bits _
theorem mov (x y : Nibble) : Statement (.mov x y) := of_bits _
theorem or (x y : Nibble) : Statement (.or x y) := of_bits _
theorem and (x y : Nibble) : Statement (.and x y) := of_bits _
theorem xor (x y : Nibble) : Statement (.xor x y) := of_bits _
theorem add (x y : Nibble) : Statement (.add x y) := of_bits _
theorem sub (x y : Nibble) : Statement (.sub x y) := of_bits _
theorem shr (x y : Nibble) : Statement (.shr x y) := of_bits _
theorem subn (x y : Nibble) : Statement (.subn x y) := of_bits _
theorem shl (x y : Nibble) : Statement (.shl x y) := of_bits _
theorem sne (x y : Nibble) : Statement (.sne x y) := of_bits _
theorem ldi (nnn : Addr12) : Statement (.ldi nnn) := of_bits _
theorem jmpv0 (nnn : Addr12) : Statement (.jmpv0 nnn) := of_bits _
theorem rnd (x : Nibble) (kk : Byte) : Statement (.rnd x kk) := of_bits _
theorem draw (x y n : Nibble) : Statement (.draw x y n) := of_bits _
theorem skp (x : Nibble) : Statement (.skp x) := of_bits _
theorem sknp (x : Nibble) : Statement (.sknp x) := of_bits _
theorem gdt (x : Nibble) : Statement (.gdt x) := of_bits _
theorem wkey (x : Nibble) : Statement (.wkey x) := of_bits _
theorem sdt (x : Nibble) : Statement (.sdt x) := of_bits _
theorem sst (x : Nibble) : Statement (.sst x) := of_bits _
theorem iadd (x : Nibble) : Statement (.iadd x) := of_bits _
theorem font (x : Nibble) : Statement (.font x) := of_bits _
theorem bcd (x : Nibble) : Statement (.bcd x) := of_bits _
theorem stm (x : Nibble) : Statement (.stm x) := of_bits _
theorem ldm (x : Nibble) : Statement (.ldm x) := of_bits _

end Sys2Proof.Laws.Catalog
end

