-- ==== Sys2Proof/Tests/Slice0.lean ====
section
/-! SUPPORT. The model's own tests: ill-formed terms that WellFormed refuses, words written bit by bit from the opcode map
(30_encoding.md R77), one-step vectors of 95_test_vectors.md part 2 (each test names its vector), and for every
obligation with hypotheses a witness that meets them. Expected values are the spec's. -/

namespace Sys2Proof.Tests

open Sys2Proof Sys2Proof.Machine

/-! ### Helpers -/

/-- The next state of a result, if it is one. -/
def nextOf : Result → Option State
  | .next t => some t
  | .fault _ => none
  | .refused _ => none

/-- The fault of a result, if it is one. -/
def faultOf : Result → Option Fault
  | .next _ => none
  | .fault f => some f
  | .refused _ => none

/-- What is read from the state one step after placing a word at ip. -/
def after (s : State) (w : Nat) (read : State → List Nat) : Option (List Nat) :=
  (nextOf (step (s.withFetchWord 16 w))).map read

/-- The fault of one step on a word placed at ip. -/
def faultAfter (s : State) (w : Nat) : Option Fault := faultOf (step (s.withFetchWord 16 w))

/-- The post-load state with some registers set. -/
def withV (vs : List (Nibble × Byte)) : State := vs.foldl (fun s p => s.setV p.1 p.2) State.reset

/-- The post-load state with I set. -/
def withI (w : Word) : State := State.reset.setI w

/-- The post-load state with some keys pressed. -/
def withKeys (ks : List Nat) : State :=
  { State.reset with keys := Vector.ofFn (fun k : Fin 16 => ks.contains k.val) }

/-- A register, as a number. -/
def reg (r : Nibble) (s : State) : Nat := (s.getV r).toNat

/-- The pixels that are on among columns 0-7 of a row, as a number, column 0 highest. -/
def pixels (y : Nat) (s : State) : Nat :=
  (List.range 8).foldl (fun n x => 2 * n + (if Frame.pixel s.fb x y then 1 else 0)) 0

theorem exists_next {r : Result} (h : (nextOf r).isSome = true) : ∃ t, r = .next t := by
  cases r with
  | next t => exact ⟨t, rfl⟩
  | fault _ => cases h
  | refused _ => cases h

theorem exists_fault {r : Result} (h : (faultOf r).isSome = true) : ∃ f, r = .fault f := by
  cases r with
  | next _ => cases h
  | fault f => exact ⟨f, rfl⟩
  | refused _ => cases h

/-! ### WellFormed -/

/-- R76: `0x00E0` is `cls`. -/
theorem test_wf_refuses_sys_at_cls : (Instr.sys 0x0E0).wf true = false := by decide

/-- R76: `0x00EE` is `ret`. -/
theorem test_wf_refuses_sys_at_ret : (Instr.sys 0x0EE).wf true = false := by decide

/-- R8, D3: no `sys` where `SYS_PRESENT` is false. -/
theorem test_wf_refuses_sys_when_absent : (Instr.sys 0x123).wf false = false := by decide

theorem test_wf_accepts : (Instr.sys 0x0E1).wf true = true ∧ (Instr.draw 15 15 15).wf false = true := by decide

/-! ### Decoding words written out bit by bit -/

theorem test_decode_fixed_words :
    decode true [0b00000000, 0b11100000] = .ok (.cls, []) ∧ decode true [0b00000000, 0b11101110] = .ok (.ret, []) := by
  decide

theorem test_decode_address_words :
    decode true [0b00000001, 0b00100011] = .ok (.sys 0x123, []) ∧
    decode true [0b00011010, 0b10111100] = .ok (.jmp 0xABC, []) ∧
    decode true [0b00100010, 0b00010000] = .ok (.call 0x210, []) ∧
    decode true [0b10100011, 0b00000000] = .ok (.ldi 0x300, []) ∧
    decode true [0b10111111, 0b11111111] = .ok (.jmpv0 0xFFF, []) := by decide

theorem test_decode_immediate_words :
    decode true [0b00110000, 0b00000001] = .ok (.sei 0 0x01, []) ∧
    decode true [0b01000011, 0b00000111] = .ok (.snei 3 0x07, []) ∧
    decode true [0b01101010, 0b01111111] = .ok (.li 10 0x7F, []) ∧
    decode true [0b01110000, 0b11111111] = .ok (.addi 0 0xFF, []) ∧
    decode true [0b11000011, 0b00001111] = .ok (.rnd 3 0x0F, []) := by decide

theorem test_decode_register_pair_words :
    decode true [0b01010001, 0b00100000] = .ok (.se 1 2, []) ∧
    decode true [0b10000011, 0b11110000] = .ok (.mov 3 15, []) ∧
    decode true [0b10000001, 0b00100001] = .ok (.or 1 2, []) ∧
    decode true [0b10000001, 0b00100010] = .ok (.and 1 2, []) ∧
    decode true [0b10000001, 0b00100011] = .ok (.xor 1 2, []) ∧
    decode true [0b10001010, 0b10110100] = .ok (.add 10 11, []) := by decide

theorem test_decode_more_register_pair_words :
    decode true [0b10000100, 0b00010101] = .ok (.sub 4 1, []) ∧
    decode true [0b10000110, 0b00000110] = .ok (.shr 6 0, []) ∧
    decode true [0b10000001, 0b00100111] = .ok (.subn 1 2, []) ∧
    decode true [0b10000000, 0b11111110] = .ok (.shl 0 15, []) ∧
    decode true [0b10010001, 0b00100000] = .ok (.sne 1 2, []) ∧
    decode true [0b11010001, 0b00100101] = .ok (.draw 1 2 5, []) := by decide

theorem test_decode_register_words :
    decode true [0b11100010, 0b10011110] = .ok (.skp 2, []) ∧
    decode true [0b11100010, 0b10100001] = .ok (.sknp 2, []) ∧
    decode true [0b11110101, 0b00000111] = .ok (.gdt 5, []) ∧
    decode true [0b11110010, 0b00001010] = .ok (.wkey 2, []) ∧
    decode true [0b11110001, 0b00010101] = .ok (.sdt 1, []) ∧
    decode true [0b11110001, 0b00011000] = .ok (.sst 1, []) := by decide

theorem test_decode_more_register_words :
    decode true [0b11110010, 0b00011110] = .ok (.iadd 2, []) ∧
    decode true [0b11111010, 0b00101001] = .ok (.font 10, []) ∧
    decode true [0b11110000, 0b00110011] = .ok (.bcd 0, []) ∧
    decode true [0b11111111, 0b01010101] = .ok (.stm 15, []) ∧
    decode true [0b11110001, 0b01100101] = .ok (.ldm 1, []) := by decide

/-- The decode table of 95_test_vectors.md 2.1: its `DecodeError` words. -/
theorem test_decode_rejects :
    [0x5121, 0x8008, 0x800D, 0x800F, 0x9121, 0xE29F, 0xF000, 0xFFFF].all
      (fun w => lookupByOpcode true w == none) = true := by decide

/-- The same table with `SYS_PRESENT` false. -/
theorem test_decode_without_sys :
    [0x0000, 0x00E1, 0x0FFF].all (fun w => lookupByOpcode false w == none) = true ∧
    lookupByOpcode false 0x00E0 = some .cls ∧ lookupByOpcode false 0x00EE = some .ret := by decide

/-- R70: one byte is no instruction, and bytes after the second are left. -/
theorem test_decode_takes_two_bytes :
    decode true [0x60] = .error .tooShort ∧ decode true [0x80, 0x08] = .error (.undecodable 0x8008) ∧
    decode true [0x60, 0x05, 0x70, 0x03] = .ok (.li 0 5, [0x70, 0x03]) := by decide

/-- Encodings of 95_test_vectors.md part 3. -/
theorem test_encode :
    encodeBytes (.jmp 0x203) = [0x12, 0x03] ∧ encodeBytes (.li 0 5) = [0x60, 0x05] ∧
    encodeBytes (.draw 1 2 5) = [0xD1, 0x25] ∧ encodeBytes (.add 15 15) = [0x8F, 0xF4] ∧
    encodeBytes (.ldm 2) = [0xF2, 0x65] := by decide

/-- Bit 0 of a row's number is the least significant bit of the second byte. -/
theorem test_decodeTableWord :
    decodeTableWord 16 0x6A7F = some (.li 10 0x7F) ∧ decodeTableWord 16 0xFFFF = none := by decide

/-! ### One step: fetch (2.1) -/

/-- FD1: the last whole instruction of memory. -/
theorem test_fetch_at_the_top :
    after { State.reset with ip := 0xFFE } 0x6007 (fun t => [reg 0 t, t.ip.toNat]) = some [7, 0x1000] := by decide

/-- FD4: an odd address. -/
theorem test_fetch_odd :
    after { State.reset with ip := 0x201 } 0x6007 (fun t => [reg 0 t, t.ip.toNat]) = some [7, 0x203] := by decide

/-- FD2, FD3. -/
theorem test_fetch_out_of_bounds :
    faultOf (step { State.reset with ip := 0xFFF }) = some (.outOfBounds 0x1000) ∧
    faultOf (step { State.reset with ip := 0x1000 }) = some (.outOfBounds 0x1000) := by decide

/-- FD5. -/
theorem test_step_when_idle : faultOf (step State.created) = some .notLoaded := by decide

/-- FD6. -/
theorem test_step_undecodable : faultAfter State.reset 0x8008 = some (.decodeError 0x8008) := by decide

/-! ### One step: ALU (2.2) -/

/-- A1. -/
theorem test_li : after State.reset 0x6A7F (fun t => [reg 10 t, t.ip.toNat]) = some [0x7F, 0x202] := by decide

/-- A2. -/
theorem test_addi_wraps :
    after (withV [(0, 0xFF), (15, 0x55)]) 0x7001 (fun t => [reg 0 t, reg 15 t]) = some [0, 0x55] := by decide

/-- A3. -/
theorem test_addi_sets_vf_when_configured :
    after { withV [(0, 0xFF), (15, 0x55)] with cfg := { Config.spec with addiSetsVf := true } } 0x7001
      (fun t => [reg 0 t, reg 15 t]) = some [0, 1] := by decide

/-- A4. -/
theorem test_mov : after (withV [(1, 0x42)]) 0x8010 (fun t => [reg 0 t, reg 1 t]) = some [0x42, 0x42] := by decide

/-- A5. -/
theorem test_or :
    after (withV [(0, 0xF0), (1, 0x0F), (15, 9)]) 0x8011 (fun t => [reg 0 t, reg 15 t]) = some [0xFF, 9] := by decide

/-- A6. -/
theorem test_and : after (withV [(0, 0xF3), (1, 0x3C)]) 0x8012 (fun t => [reg 0 t]) = some [0x30] := by decide

/-- A7. -/
theorem test_xor : after (withV [(0, 0xAA)]) 0x8003 (fun t => [reg 0 t]) = some [0] := by decide

/-- A8. -/
theorem test_xor_resets_vf_when_configured :
    after { withV [(0, 0xFF), (1, 0x0F), (15, 1)] with cfg := { Config.spec with logicResetsVf := true } } 0x8013
      (fun t => [reg 0 t, reg 15 t]) = some [0xF0, 0] := by decide

/-- A12. -/
theorem test_add_carries : after (withV [(2, 0x80)]) 0x8224 (fun t => [reg 2 t, reg 15 t]) = some [0, 1] := by decide

/-- A13, both orders. -/
theorem test_add_into_vf :
    after (withV [(15, 0x90)]) 0x8FF4 (fun t => [reg 15 t]) = some [1] ∧
    after { withV [(15, 0x90)] with cfg := { Config.spec with vfWriteOrder := .resultLast } } 0x8FF4
      (fun t => [reg 15 t]) = some [0x20] := by decide

/-- A15 (W2): VF = 1 on borrow. -/
theorem test_sub_borrows : after (withV [(1, 1)]) 0x8015 (fun t => [reg 0 t, reg 15 t]) = some [0xFF, 1] := by decide

/-- A17: equal operands. -/
theorem test_sub_equal :
    after (withV [(0, 7), (1, 7), (15, 5)]) 0x8015 (fun t => [reg 0 t, reg 15 t]) = some [0, 0] := by decide

/-- A20. -/
theorem test_subn_borrows :
    after (withV [(0, 5), (1, 3)]) 0x8017 (fun t => [reg 0 t, reg 15 t]) = some [0xFE, 1] := by decide

/-- A21. -/
theorem test_subn : after (withV [(0, 3), (1, 5)]) 0x8017 (fun t => [reg 0 t, reg 15 t]) = some [2, 0] := by decide

/-- A24. -/
theorem test_shr : after (withV [(0, 0xFF), (1, 2)]) 0x8016 (fun t => [reg 0 t, reg 15 t]) = some [0x7F, 1] := by decide

/-- A25. -/
theorem test_shr_from_vy :
    after { withV [(0, 0xFF), (1, 2)] with cfg := { Config.spec with shiftSource := .vy } } 0x8016
      (fun t => [reg 0 t, reg 15 t]) = some [1, 0] := by decide

/-- A26. -/
theorem test_shl_top_bit : after (withV [(0, 0x80)]) 0x800E (fun t => [reg 0 t, reg 15 t]) = some [0, 1] := by decide

/-- A27. -/
theorem test_shl : after (withV [(0, 0x7F)]) 0x800E (fun t => [reg 0 t, reg 15 t]) = some [0xFE, 0] := by decide

/-! ### One step: control flow (2.3) -/

/-- CF1. -/
theorem test_sys : after { State.reset with ip := 0x300 } 0x0123 (fun t => [t.ip.toNat]) = some [0x302] := by decide

/-- CF3. -/
theorem test_jmp_odd : after State.reset 0x1203 (fun t => [t.ip.toNat]) = some [0x203] := by decide

/-- CF5. -/
theorem test_jmpv0_no_wrap :
    after (withV [(0, 0xFF)]) 0xBFFF (fun t => [t.ip.toNat, t.stack.length]) = some [0x10FE, 0] := by decide

/-- CF6. -/
theorem test_jmpv0_pushes_when_configured :
    after { withV [(0, 4)] with cfg := { Config.spec with jumpV0Pushes := true } } 0xB300
      (fun t => t.ip.toNat :: t.stack.map BitVec.toNat) = some [0x304, 0x202] := by decide

/-- CF7. -/
theorem test_call :
    after { State.reset with ip := 0x204 } 0x2210 (fun t => t.ip.toNat :: t.stack.map BitVec.toNat) =
      some [0x210, 0x206] := by decide

/-- R214. -/
theorem test_call_on_full_stack :
    faultAfter { State.reset with stack := [0x202], cfg := { Config.spec with stackDepth := some 1 } } 0x2210 =
      some .stackOverflow := by decide

/-- CF8. -/
theorem test_ret :
    after { State.reset with ip := 0x212, stack := [0x206] } 0x00EE (fun t => t.ip.toNat :: t.stack.map BitVec.toNat) =
      some [0x206] := by decide

/-- CF9, both values of `RET_EMPTY`. -/
theorem test_ret_on_empty_stack :
    after State.reset 0x00EE (fun t => [t.ip.toNat]) = some [0x200] ∧
    after { State.reset with cfg := { Config.spec with retEmpty := .advance } } 0x00EE
      (fun t => [t.ip.toNat]) = some [0x202] := by decide

/-- CF10, CF11. -/
theorem test_sei :
    after State.reset 0x3000 (fun t => [t.ip.toNat]) = some [0x204] ∧
    after (withV [(0, 1)]) 0x3000 (fun t => [t.ip.toNat]) = some [0x202] := by decide

/-- CF12, CF13. -/
theorem test_snei :
    after (withV [(3, 7)]) 0x4307 (fun t => [t.ip.toNat]) = some [0x202] ∧
    after (withV [(3, 8)]) 0x4307 (fun t => [t.ip.toNat]) = some [0x204] := by decide

/-- CF14, CF15. -/
theorem test_se :
    after (withV [(1, 0x33)]) 0x5110 (fun t => [t.ip.toNat]) = some [0x204] ∧
    after (withV [(1, 1), (2, 2)]) 0x5120 (fun t => [t.ip.toNat]) = some [0x202] := by decide

/-- CF16, CF17. -/
theorem test_sne :
    after (withV [(1, 1), (2, 2)]) 0x9120 (fun t => [t.ip.toNat]) = some [0x204] ∧
    after (withV [(1, 5)]) 0x9110 (fun t => [t.ip.toNat]) = some [0x202] := by decide

/-- CF18, CF19. -/
theorem test_skp :
    after ((withKeys [5]).setV 0 5) 0xE09E (fun t => [t.ip.toNat]) = some [0x204] ∧
    after (withV [(0, 5)]) 0xE09E (fun t => [t.ip.toNat]) = some [0x202] := by decide

/-- CF22. -/
theorem test_skp_out_of_range : faultAfter (withV [(0, 0x10)]) 0xE09E = some (.keyOutOfRange 0x10) := by decide

/-- CF20, CF21. -/
theorem test_sknp :
    after (withV [(0, 5)]) 0xE0A1 (fun t => [t.ip.toNat]) = some [0x204] ∧
    after ((withKeys [5]).setV 0 5) 0xE0A1 (fun t => [t.ip.toNat]) = some [0x202] := by decide

/-! ### One step: framebuffer (2.4) -/

/-- DR1. -/
theorem test_cls :
    after { State.reset with fb := Frame.setPixel Frame.blank 3 4 true } 0x00E0
      (fun t => [pixels 4 t, if t.renderRequest then 1 else 0, t.ip.toNat]) = some [0, 1, 0x202] := by decide

/-- DR2: glyph A. -/
theorem test_draw_glyph :
    after (withI 0x032) 0xD125 (fun t => [pixels 0 t, pixels 1 t, pixels 2 t, pixels 3 t, pixels 4 t, pixels 5 t, reg 15 t]) =
      some [0xF0, 0x90, 0xF0, 0x90, 0x90, 0, 0] := by decide

/-- DR7. -/
theorem test_draw_out_of_bounds : faultAfter (withI 0xFFE) 0xD123 = some (.outOfBounds 0x1000) := by decide

/-! ### One step: random, timers, keys (2.5) -/

/-- T1. -/
theorem test_rnd_masks :
    after { State.reset with rand := [0xA7, 0x11] } 0xC30F (fun t => [reg 3 t, t.rand.length]) = some [7, 1] := by decide

/-- T4. -/
theorem test_gdt : after (State.reset.setDt 0x3C) 0xF507 (fun t => [reg 5 t]) = some [0x3C] := by decide

/-- T5. -/
theorem test_sdt : after (withV [(0, 60)]) 0xF015 (fun t => [t.dt.toNat]) = some [60] := by decide

/-- T12. -/
theorem test_sst_raises_no_alert :
    after (State.reset.setSt 1) 0xF018 (fun t => [t.st.toNat, if t.soundAlert then 1 else 0]) = some [0, 0] := by decide

/-- T7. -/
theorem test_wkey_waits : after State.reset 0xF20A (fun t => [reg 2 t, t.ip.toNat]) = some [0, 0x200] := by decide

/-- T8 with one of its keys. -/
theorem test_wkey_takes_the_key : after (withKeys [9]) 0xF20A (fun t => [reg 2 t, t.ip.toNat]) = some [9, 0x202] := by decide

/-- T9. -/
theorem test_tick_alert :
    (let t := ((State.reset.setDt 2).setSt 1).tick; (t.dt, t.st, t.soundAlert)) = (1, 0, true) := by decide

/-- T10, T11. -/
theorem test_tick_at_zero :
    (let t := (State.reset.setDt 1).tick; (t.dt, t.st, t.soundAlert)) = (0, 0, false) ∧
    State.reset.tick = State.reset := by decide

/-! ### One step: index and memory (2.6) -/

/-- M1. -/
theorem test_ldi : after State.reset 0xA300 (fun t => [t.i.toNat]) = some [0x300] := by decide

/-- M3, M4. -/
theorem test_iadd :
    after ((withI 0xFFFF).setV 0 1) 0xF01E (fun t => [t.i.toNat]) = some [0] ∧
    after ((withI 0x0FFF).setV 0 1) 0xF01E (fun t => [t.i.toNat, reg 15 t]) = some [0x1000, 0] := by decide

/-- M6, M7. -/
theorem test_font :
    after (withV [(0, 0x1A)]) 0xF029 (fun t => [t.i.toNat]) = some [0x032] ∧
    after (withV [(0, 0x0F)]) 0xF029 (fun t => [t.i.toNat]) = some [0x04B] := by decide

/-- The bytes at 0x300, 0x301, 0x302. -/
def bytesAt300 (t : State) : List Nat := (t.readBytes 0x300 3).map BitVec.toNat

/-- M8. -/
theorem test_bcd : after ((withI 0x300).setV 0 254) 0xF033 bytesAt300 = some [2, 5, 4] := by decide

/-- M11. -/
theorem test_bcd_out_of_bounds : faultAfter ((withI 0xFFE).setV 0 7) 0xF033 = some (.outOfBounds 0x1000) := by decide

/-- M12 (at 0x300), M13. -/
theorem test_stm :
    after ((withV [(0, 1), (1, 2), (2, 3)]).setI 0x300) 0xF255 (fun t => t.i.toNat :: bytesAt300 t) =
      some [0x300, 1, 2, 3] ∧
    after { (withV [(0, 1), (1, 2), (2, 3)]).setI 0x300 with cfg := { Config.spec with loadStoreMode := .plusXPlus1 } }
      0xF255 (fun t => t.i.toNat :: bytesAt300 t) = some [0x303, 1, 2, 3] := by decide

/-- M17. -/
theorem test_stm_out_of_bounds : faultAfter (withI 0xFF1) 0xFF55 = some (.outOfBounds 0x1000) := by decide

/-- M15. -/
theorem test_ldm :
    after ((withI 0x300).writeBytes 0x300 [2, 5, 4, 9]) 0xF265 (fun t => [reg 0 t, reg 1 t, reg 2 t, reg 3 t]) =
      some [2, 5, 4, 0] := by decide

/-- M18. -/
theorem test_ldm_into_vf : after ((withI 0x300).writeByte 0x30F 0x77) 0xFF65 (fun t => [reg 15 t]) = some [0x77] := by
  decide

/-! ### Host commands (2.7) -/

/-- HC3: what `load` of no bytes and a step leave. -/
theorem test_empty_program_steps :
    session [.load [], .step] (.all State.created) = ([.ok, .ok], .all { State.reset with ip := 0x202 }) := by decide

/-- HC4. -/
theorem test_set_register_refused :
    perform (.setRegister 16 0) State.reset = .done State.reset .refused ∧
    perform (.setRegister 0 256) State.reset = .done State.reset .refused := by decide

/-- HC5, FD7: after a decode error the host steps again, or moves ip and goes on. -/
theorem test_resume_after_decode_error :
    (session [.load [0x80, 0x08, 0x60, 0x07], .step, .step, .setIp 0x202, .step, .getRegister 0] (.all State.created)).1 =
      [.ok, .fault (.decodeError 0x8008), .fault (.decodeError 0x8008), .ok, .ok, .value 7] := by decide

/-- P7's faulting store, then R217: nothing of that state is read, and a load makes the machine fresh. -/
theorem test_load_after_data_access_fault :
    (session [.step, .getRegister 1, .getPixel 64 0, .load [0x60, 0x07], .step, .getRegister 0]
      (.all ((withI 0xFFF).withFetchWord 16 0xF155))).1 =
      [.fault (.outOfBounds 0x1000), .unobservable, .pixel false, .ok, .ok, .value 7] := by decide

/-! ### The run loop's schedule -/

/-- The post-load state with ST = 1, after as many instruction steps of the round as it has before its first tick. -/
def beforeTick : State :=
  (State.reset.setSt 1).setSchedule { round := 0, steps := Config.stepsBeforeTick 0 + 1, ticks := 0 }

theorem tickIsNext_beforeTick : beforeTick.tickIsNext = true :=
  decide_eq_true (Nat.le_refl (Config.stepsBeforeTick 0))

/-- R219, R220: the tick moves, and no instruction (T9's alert). -/
theorem test_run_loop_ticks :
    (nextOf (step beforeTick)).map (fun t => (t.st, t.soundAlert, t.ip)) = some (0, true, 0x200) := by
  have h : step beforeTick = .next (beforeTick.tick.setSchedule beforeTick.schedule.countTick) :=
    if_pos tickIsNext_beforeTick
  rw [h]
  rfl

/-- No tick is next after reset or in mode `idle`. -/
theorem test_step_moves_first : State.reset.tickIsNext = false ∧ State.created.tickIsNext = false := by decide

/-! ### Witnesses: the hypotheses of each obligation are met, each clause at a boundary of its range -/

/-- A state whose next step runs the word, with ip at the given address. -/
def at_ (ip : Word) (w : Nat) : State := { State.reset with ip := ip }.withFetchWord 16 w

/-- A bounded stack with room for one entry, and one with none. -/
def bounded (stack : List Word) : State :=
  { State.reset with stack := stack, cfg := { Config.spec with stackDepth := some 1, jumpV0Pushes := true } }

/-- `stm v1` at I = 4095: its second byte is out of range. -/
def storeOut : State := { withI 4095 with mem := [(0x200, 0xF1), (0x201, 0x55)] }

theorem witness_DecodeOfEncodeIsTheInstruction :
    (Instr.sys 0xFFF).wf true = true ∧ (Instr.draw 15 0 15).wf false = true := by decide

theorem witness_EncodeOfDecodeIsTheWord :
    lookupByOpcode true 0x0FFF = some (.sys 0xFFF) ∧ lookupByOpcode false 0xFF65 = some (.ldm 15) := by decide

theorem witness_UndecodableWordsAreTheListedOnes :
    lookupByOpcode true 0x5121 = none ∧ lookupByOpcode true 0x800F = none ∧ lookupByOpcode true 0xE29F = none ∧
    lookupByOpcode true 0xF000 = none ∧ lookupByOpcode false 0x0000 = none := by decide

theorem witness_LookupTakesTheMostSpecificMatch :
    lookupByOpcode true 0x00E0 = some .cls ∧ lookupByOpcode true 0xF000 = none := by decide

theorem witness_EveryCatalogPatternDecodes : (0xFFF : Addr12) ≠ 0x0E0 ∧ (0xFFF : Addr12) ≠ 0x0EE := by decide

theorem witness_EveryInstructionIsTwoBigEndianBytes :
    decode true [0x60, 0x05, 0x70] = .ok (.li 0 5, [0x70]) ∧ ([0x60] : List Byte).length < 2 ∧
    (State.reset.setIp 4094).ip.toNat ≤ 4094 := by decide

/-- At the highest address of a whole instruction, with and without a step command pending. -/
theorem witness_StepRunsTheDecodedInstruction :
    (at_ 4094 0x6007).mode = .loaded ∧ (at_ 4094 0x6007).ip.toNat = 4094 ∧
    lookupByOpcode (at_ 4094 0x6007).cfg.sysPresent
      ((at_ 4094 0x6007).readByte 4094 ++ (at_ 4094 0x6007).readByte 4095) = some (.li 0 7) ∧
    (at_ 4094 0x6007).queue = [] ∧ (at_ 4094 0x6007).tickIsNext = false ∧
    ((at_ 4094 0x6007).setQueue [.step, .tick]).queue = .step :: [.tick] := by decide

/-- One state for each clause. -/
theorem witness_StepFaultsInPriorityOrder :
    (State.created.queue = [] ∧ State.created.tickIsNext = false ∧ State.created.mode = .idle) ∧
    ((State.reset.setIp 4096).queue = [] ∧ (State.reset.setIp 4096).tickIsNext = false ∧
      (State.reset.setIp 4096).mode = .loaded ∧
      4095 < (State.reset.setIp 4096).ip.toNat) ∧
    ((State.reset.setIp 4095).mode = .loaded ∧ (State.reset.setIp 4095).ip.toNat = 4095) ∧
    ((at_ 4094 0xFFFF).mode = .loaded ∧ (at_ 4094 0xFFFF).ip.toNat < 4095 ∧ (at_ 4094 0xFFFF).queue = [] ∧
      (at_ 4094 0xFFFF).tickIsNext = false ∧
      lookupByOpcode (at_ 4094 0xFFFF).cfg.sysPresent
        ((at_ 4094 0xFFFF).readByte 4094 ++ (at_ 4094 0xFFFF).readByte 4095) = none) := by decide

theorem witness_QueuedCommandIsPerformedBeforeAnyStep :
    (State.reset.setQueue [.setRegister 16 0, .tick]).queue = .setRegister 16 0 :: [.tick] ∧
    Command.setRegister 16 0 ≠ .step ∧
    perform (.setRegister 16 0) (State.reset.setQueue [.tick]) = .done (State.reset.setQueue [.tick]) .refused := by decide

/-- `stm v0` at I = 4095: it stores to the last byte of memory. -/
def storeAtTop : State := { withI 4095 with mem := [(0x200, 0xF0), (0x201, 0x55)] }

/-- `call 0x210` at the last instruction of memory. -/
def callAtTop : State := { State.reset with ip := 4094, mem := [(4094, 0x22), (4095, 0x10)] }

theorem witness_StepKeepsInvariant : storeAtTop.Inv ∧ ∃ t, step storeAtTop = .next t :=
  ⟨by decide, exists_next (by decide)⟩

theorem witness_StepKeepsInvariant_call : callAtTop.Inv ∧ ∃ t, step callAtTop = .next t :=
  ⟨by decide, exists_next (by decide)⟩

theorem witness_StepKeepsInvariant_load :
    (State.reset.setQueue [.load [1, 2]]).Inv ∧ ∃ t, step (State.reset.setQueue [.load [1, 2]]) = .next t :=
  ⟨by decide, exists_next (by decide)⟩

theorem witness_OnlyLoadChangesTheMode :
    ([] : List Byte).length ≤ State.created.cfg.maxProgramBytes.val ∧
    perform (.load []) State.created = .done State.reset .ok ∧ State.reset.mode ≠ State.created.mode ∧
    perform .step State.created = .done State.created (.fault .notLoaded) ∧
    ∃ t, step State.reset = .next t :=
  ⟨by decide, by decide, by decide, by decide, exists_next (by decide)⟩

/-- The longest program that is accepted and the shortest that is refused (HC1, HC2). -/
theorem witness_LoadMakesTheMachineFresh :
    (List.replicate 3584 (0xFF : Byte)).length ≤ State.created.cfg.maxProgramBytes.val ∧
    State.created.cfg.maxProgramBytes.val < (List.replicate 3585 (0xFF : Byte)).length := by
  rw [List.length_replicate, List.length_replicate]; decide

theorem witness_TickCountsBothTimersDown :
    (State.reset.setSt 1).mode = .loaded ∧ (State.reset.setSt 1).st ≠ 0 ∧ (State.reset.setSt 1).dt = 0 ∧
    (State.reset.setDt 255).dt ≠ 0 ∧ (State.reset.setDt 255).st = 0 ∧ State.created.mode = .idle ∧
    State.created.load [] = some State.reset ∧ (State.reset.setQueue [.tick]).queue = .tick :: [] := by decide

theorem witness_HostRegisterAndIpCommands :
    (15 ≤ 15 ∧ 255 ≤ 255) ∧ (15 < 16 ∨ 255 < 0) ∧ (15 < 0 ∨ 255 < 256) ∧ 0xFFFF ≤ 0xFFFF ∧ 0xFFFF < 0x10000 := by
  decide

theorem witness_PixelCommandsClampOffScreen : (63 < 64 ∧ 31 < 32) ∧ (64 ≤ 64 ∨ 32 ≤ 0) ∧ (64 ≤ 0 ∨ 32 ≤ 32) := by
  decide

theorem witness_EveryRegisterIsReadableAndWritable :
    State.reset.cfg.addiSetsVf = false ∧ State.created.load [] = some State.reset := by decide

/-- ip at 4094, 4095 and 4096; an access that ends at 4095 and one whose second byte is out of range. -/
theorem witness_MemoryPrimitivesCheckEveryAddress :
    (State.reset.setIp 4094).ip.toNat ≤ 4094 ∧ (State.reset.setIp 4095).ip.toNat = 4095 ∧
    4095 < (State.reset.setIp 4096).ip.toNat ∧ (∀ k < 2, 4094 + k ≤ 4095) ∧
    (1 < 2 ∧ 4095 < 4095 + 1 ∧ ∀ j < 1, 4095 + j ≤ 4095) := by decide

theorem witness_FaultLeavesTheSessionWhereItWas :
    perform .step (at_ 0x200 0x8008) = .done (at_ 0x200 0x8008) (.fault (.decodeError 0x8008)) ∧
    perform .step State.created = .done State.created (.fault .notLoaded) := by decide

theorem witness_ExecFaultsAreTheSpecsOutcomes :
    (∃ f, exec (.bcd 0) (withI 4094) = .fault f) ∧ (∃ f, exec (.call 0) (bounded [0x202]) = .fault f) ∧
    (∃ f, exec (.skp 0) (withV [(0, 16)]) = .fault f) :=
  ⟨exists_fault (by decide), exists_fault (by decide), exists_fault (by decide)⟩

theorem witness_IpGoesWhereTheInstructionSays :
    (∃ t, exec (.sei 0 0) State.reset = .next t) ∧ (∃ t, exec (.wkey 0) State.reset = .next t) ∧
    (∃ t, exec .ret (bounded [0x202]) = .next t) ∧ (∃ t, exec .ret State.reset = .next t) ∧
    (∃ t, exec (.jmpv0 0xFFF) State.reset = .next t) :=
  ⟨exists_next (by decide), exists_next (by decide), exists_next (by decide), exists_next (by decide),
    exists_next (by decide)⟩

theorem witness_RegistersWrittenAreTheTabledOnes :
    (∃ t, exec (.ldm 14) State.reset = .next t) ∧ writesRegister State.reset.cfg (.ldm 14) 15 = false :=
  ⟨exists_next (by decide), by decide⟩

theorem witness_EveryInstructionFrame :
    (∃ t, exec (.stm 0) (withI 4095) = .next t) ∧ (∃ t, exec (.draw 0 0 15) State.reset = .next t) :=
  ⟨exists_next (by decide), exists_next (by decide)⟩

theorem witness_TickCommutesWithUntimedInstructions :
    (∀ x, Instr.ldm 15 ≠ .gdt x ∧ Instr.ldm 15 ≠ .sdt x ∧ Instr.ldm 15 ≠ .sst x) ∧
    (∃ t, exec (.ldm 15) (withI 4080) = .next t) ∧ (∃ f, exec (.ldm 15) (withI 4081) = .fault f) :=
  ⟨by decide, exists_next (by decide), exists_fault (by decide)⟩

theorem witness_OnlyKeyInstructionsReadTheKeys :
    (∀ x, Instr.bcd 0 ≠ .skp x ∧ Instr.bcd 0 ≠ .sknp x ∧ Instr.bcd 0 ≠ .wkey x) ∧
    (∃ t, exec (.bcd 0) (withI 4093) = .next t) ∧ (∃ f, exec (.bcd 0) (withI 4094) = .fault f) :=
  ⟨by decide, exists_next (by decide), exists_fault (by decide)⟩

/-- Before an instruction step, and before a tick. -/
theorem witness_SelfJumpIsTheEndOfARun :
    ((at_ 0x20C 0x120C).atSelfJump ∧ (at_ 0x20C 0x120C).queue = [] ∧ (at_ 0x20C 0x120C).tickIsNext = false) ∧
    (((at_ 0x20C 0x120C).setSchedule beforeTick.schedule).atSelfJump ∧
      ((at_ 0x20C 0x120C).setSchedule beforeTick.schedule).queue = [] ∧
      ((at_ 0x20C 0x120C).setSchedule beforeTick.schedule).tickIsNext = true) :=
  ⟨⟨⟨by decide, rfl⟩, by decide, by decide⟩, ⟨⟨rfl, rfl⟩, rfl, tickIsNext_beforeTick⟩⟩

theorem witness_TicksFallBetweenStepsAndKeepComing :
    beforeTick.queue = [] ∧ beforeTick.tickIsNext = true ∧ core.run 0 beforeTick = .next beforeTick :=
  ⟨rfl, tickIsNext_beforeTick, rfl⟩

/-- The store of 95_test_vectors.md P7, a program that fits and one that does not, and two states that differ in a
register only. -/
theorem witness_LoadMakesTheMachineKnownAfterALostFault :
    storeOut.fetchInstr = .ok (.stm 1) ∧ faultOf (exec (.stm 1) storeOut.lowerRender) = some (.outOfBounds 0x1000) ∧
    perform .step storeOut = .lost storeOut (.outOfBounds 0x1000) ∧
    ([] : List Byte).length ≤ storeOut.cfg.maxProgramBytes.val ∧
    ({ storeOut with cfg := { Config.spec with maxProgramBytes := 0 } } : State).cfg.maxProgramBytes.val < [(1 : Byte)].length ∧
    perform .step { storeOut with cfg := { Config.spec with maxProgramBytes := 0 } } =
      .lost { storeOut with cfg := { Config.spec with maxProgramBytes := 0 } } (.outOfBounds 0x1000) := by decide

theorem witness_LoadMakesTheMachineKnownAfterALostFault_replies :
    (∀ p ∈ [Part.cfg, .keys, .randomInput, .freeValues, .queue, .schedule], p.kept storeOut (storeOut.setV 1 7)) ∧
    (storeOut.setV 1 7).getV 1 ≠ storeOut.getV 1 := by
  refine ⟨fun p hp => ?_, by decide⟩
  simp only [List.mem_cons, List.not_mem_nil, or_false] at hp
  rcases hp with rfl | rfl | rfl | rfl | rfl | rfl <;> rfl

/-- The last two bytes of memory, and of the longest transfer. -/
theorem witness_StoredBytesAreFetchedAsWritten :
    (withI 4080).i.toNat + (15 : Nibble).toNat + 1 ≤ 4096 ∧ 14 + 1 ≤ (15 : Nibble).toNat := by decide

theorem witness_AddImmediateWraps :
    State.reset.cfg.addiSetsVf = false ∧
    ({ State.reset with cfg := { Config.spec with addiSetsVf := true } } : State).cfg.addiSetsVf = true := by decide

theorem witness_BitwiseLogicWritesTheResult :
    State.reset.cfg.logicResetsVf = false ∧
    ({ State.reset with cfg := { Config.spec with logicResetsVf := true } } : State).cfg.logicResetsVf = true := by decide

theorem witness_ShiftsMoveOneBitIntoVf :
    (0x81 : Byte) =
      (match (withV [(15, 0x81)]).cfg.shiftSource with
        | .vx => (withV [(15, 0x81)]).getV 15
        | .vy => (withV [(15, 0x81)]).getV 0) := by decide

theorem witness_hasRoom : State.reset.hasRoom ∧ (bounded []).hasRoom := by
  refine ⟨fun depth h => ?_, fun depth h => ?_⟩
  · cases h
  · cases h; decide

theorem witness_IndexedJumpAddsV0 :
    State.reset.cfg.jumpV0Pushes = false ∧ (bounded []).cfg.jumpV0Pushes = true ∧ (bounded []).hasRoom :=
  ⟨by decide, by decide, witness_hasRoom.2⟩

theorem witness_CallPushesTheReturnAddress : State.reset.hasRoom ∧ (bounded []).hasRoom := witness_hasRoom

theorem witness_PushOnFullStackFaults :
    (bounded [0x202]).cfg.stackDepth = some 1 ∧ 1 ≤ (bounded [0x202]).stack.length ∧
    (bounded [0x202]).cfg.jumpV0Pushes = true := by decide

theorem witness_RetPopsOrActsAsRetEmptySays :
    (bounded [0x202]).stack = 0x202 :: [] ∧ State.reset.stack = [] ∧ State.reset.cfg.retEmpty = .stay ∧
    ({ State.reset with cfg := { Config.spec with retEmpty := .advance } } : State).cfg.retEmpty = .advance := by decide

theorem witness_CallThenRetComesBack :
    State.reset.hasRoom ∧ ∃ t, exec (.call 0x210) State.reset = .next t ∧ (withI 5 |>.setStack t.stack).stack = t.stack :=
  ⟨witness_hasRoom.1, (exists_next (by decide)).elim fun t h => ⟨t, h, rfl⟩⟩

theorem witness_KeySkipsTestTheNamedKey :
    ((withV [(0, 15)]).getV 0).toNat = (15 : Fin 16).val ∧ ((withKeys [0]).getV 0).toNat = (0 : Fin 16).val := by decide

theorem witness_KeyNumberAboveFifteenFaults : 15 < ((withV [(0, 16)]).getV 0).toNat := by decide

/-- A sprite that ends at 4095, and one of no rows at an I out of range. -/
theorem witness_DrawXorsTheSpriteAndReportsCollision :
    (withI 4081).i.toNat + (15 : Nibble).toNat ≤ 4096 ∧ ((0 : Nibble) = 0 ∧ 4096 < (withI 0xFFFF).i.toNat) := by decide

theorem witness_DrawingTwiceRestoresTheScreen :
    (14 : Nibble) ≠ 15 ∧ (0 : Nibble) ≠ 15 ∧ (withI 4081).i.toNat + (15 : Nibble).toNat ≤ 4096 := by decide

theorem witness_WaitForKeyTakesAPressedKey :
    (∃ k : Fin 16, (withKeys [15]).keys[k] = true) ∧ ∃ k : Fin 16, (withKeys [0, 9]).keys[k] = true := by decide

theorem witness_WaitForKeyStaysWithNoKey : ∀ k : Fin 16, State.reset.keys[k] = false := by decide

theorem witness_BcdStoresThreeDecimalDigits :
    (withI 4093).i.toNat + 3 ≤ 4096 ∧ ((withI 4093).i.toNat < 4093 ∨ (withI 4093).i.toNat + 3 ≤ 4096) := by decide

theorem witness_StmStoresTheLowRegisters :
    (withI 4080).i.toNat + (15 : Nibble).toNat + 1 ≤ 4096 ∧ (15 : Nibble).toNat ≤ (15 : Nibble).toNat ∧
    (4079 < (withI 4080).i.toNat) := by decide

theorem witness_LdmLoadsTheLowRegisters : (withI 4095).i.toNat + (0 : Nibble).toNat + 1 ≤ 4096 := by decide

theorem witness_LdmAfterStmRestoresTheRegisters :
    (withI 4080).cfg.loadStoreMode = .unchanged ∧ (withI 4080).i.toNat + (15 : Nibble).toNat + 1 ≤ 4096 ∧
    ∃ t, exec (.stm 15) (withI 4080) = .next t ∧
      (t.setV 3 9).i = t.i ∧ ∀ a, (t.setV 3 9).readByte a = t.readByte a :=
  ⟨by decide, by decide, (exists_next (by decide)).elim fun t h => ⟨t, h, rfl, fun _ => rfl⟩⟩

/-- Each access one byte too long, and one whose first byte is out of range. -/
theorem witness_AccessPastTheTopFaultsFirst :
    ((1 : Nibble) ≠ 0 ∧ 4096 < (withI 4096).i.toNat + (1 : Nibble).toNat) ∧ 4096 < (withI 4094).i.toNat + 3 ∧
    4096 < (withI 4081).i.toNat + (15 : Nibble).toNat + 1 ∧
    4096 < (withI 0xFFFF).i.toNat + (0 : Nibble).toNat + 1 := by decide

theorem witness_FontPointsAtTheGlyphBytes :
    State.reset.cfg.fontStride = 5 ∧ ∀ a, (h : a < 80) → State.reset.readByte a = State.reset.cfg.font[a] := by
  refine ⟨by decide, fun a h => ?_⟩
  show Config.specFont[a]?.getD 0 = Config.specFont[a]
  simp [h]

end Sys2Proof.Tests
end

/-! The memory primitives of 00_scope.md R12. -/

namespace Sys2Proof.Proofs
section
open Sys2Proof Sys2Proof.Machine

/-- The first address above 4095 is the base itself where that is out of range, and 4096 otherwise. -/
theorem first_address_out_of_range_eq_max {base k : Nat} (hout : 4095 < base + k)
    (hfirst : ∀ j < k, base + j ≤ 4095) : base + k = max base memSize := by
  unfold memSize
  cases k with
  | zero => omega
  | succ j =>
    have hprev : base + j ≤ 4095 := hfirst j j.lt_succ_self
    omega

theorem guardRange_of_forall_le {base len : Nat} (effect : Result) (hfits : ∀ k < len, base + k ≤ 4095) :
    guardRange base len effect = effect := by
  apply guardRange_of_fits
  unfold memSize
  cases len with
  | zero => exact .inl rfl
  | succ k =>
    have hlast : base + k ≤ 4095 := hfits k k.lt_succ_self
    omega

theorem guardRange_of_first_out_of_range {base len k : Nat} (effect : Result) (hk : k < len)
    (hout : 4095 < base + k) (hfirst : ∀ j < k, base + j ≤ 4095) :
    guardRange base len effect = .fault (.outOfBounds (base + k)) := by
  have hpast : memSize < base + len := by unfold memSize; omega
  rw [first_address_out_of_range_eq_max hout hfirst]
  exact guardRange_of_not_fits base len effect (Nat.ne_zero_of_lt hk) hpast

/-- Settles O20: the fetch faults with the larger of ip and 4096, and the guard with the larger of the base and
4096, which is the first address out of range of either. -/
theorem memoryPrimitivesCheckEveryAddress : Obligations.MemoryPrimitivesCheckEveryAddress := by
  unfold Obligations.MemoryPrimitivesCheckEveryAddress
  refine ⟨State.fetchWord_of_fits, fun s hip => ?top, fun s hip => ?above, State.readByte_writeByte,
    fun _ _ => guardRange_of_forall_le, fun _ _ _ => guardRange_of_first_out_of_range⟩
  case top => rw [s.fetchWord_of_not_fits (by omega), hip]; rfl
  case above => rw [s.fetchWord_of_not_fits (by omega), Nat.max_eq_left hip]

end
end Sys2Proof.Proofs

/-! What a load, a host command and an instruction do to the mode (10_state.md R20). -/

namespace Sys2Proof.Proofs
section
open Sys2Proof Sys2Proof.Machine

variable {s t : State}

/-! ### The load -/

/-- An accepted load makes every part of the table of R42 fresh; what memory holds is not said here. -/
theorem load_eq_some {bytes : List Byte} (h : s.load bytes = some t) :
    ∃ mem, t = { s with
      mode := .loaded, v := Vector.replicate 16 0, i := 0, ip := 0x200, stack := [], mem := mem, fb := Frame.blank,
      dt := 0, st := 0, renderRequest := false, soundAlert := false } := by
  unfold State.load at h
  split at h <;> cases h
  rw [State.writeBytes_eq]
  exact ⟨_, rfl⟩

theorem exists_load_eq_some (s : State) {bytes : List Byte} (h : bytes.length ≤ s.cfg.maxProgramBytes.val) :
    ∃ t, s.load bytes = some t := by
  simp [State.load, Nat.not_lt.mpr h]

theorem load_mode {bytes : List Byte} (h : s.load bytes = some t) : t.mode = .loaded := by
  obtain ⟨mem, rfl⟩ := load_eq_some h
  rfl

theorem load_getV {bytes : List Byte} (h : s.load bytes = some t) (r : Nibble) : t.getV r = 0 := by
  obtain ⟨mem, rfl⟩ := load_eq_some h
  simp [State.getV]

/-! ### An instruction -/

@[simp] theorem writeResultAndFlag_mode (x : Nibble) (r : Nat) (f : Byte) :
    (s.writeResultAndFlag x r f).mode = s.mode := by
  rw [State.writeResultAndFlag_eq]

@[simp] theorem writeLogic_mode (x : Nibble) (r : Byte) : (s.writeLogic x r).mode = s.mode := by
  rw [State.writeLogic_eq]

@[simp] theorem writeBytes_mode (base : Nat) (bs : List Byte) : (s.writeBytes base bs).mode = s.mode := by
  rw [State.writeBytes_eq]

@[simp] theorem setRegistersFrom_mode (k : Nat) (bs : List Byte) : (s.setRegistersFrom k bs).mode = s.mode := by
  rw [State.setRegistersFrom_eq]

@[simp] theorem randomByte_mode : s.randomByte.2.mode = s.mode := by
  obtain ⟨b, bs, -, h⟩ | ⟨-, h⟩ := s.randomByte_cases <;> rw [h]

/-- An instruction's answer in mode `m`: the mode stays, and `NotLoaded`, which is the fetch's, is not reported. -/
def KeepsMode (m : Mode) : Result → Prop
  | .next t => t.mode = m
  | .fault f => f ≠ .notLoaded
  | .refused _ => True

theorem keepsMode_guardRange {m : Mode} {effect : Result} (base len : Nat) (h : KeepsMode m effect) :
    KeepsMode m (guardRange base len effect) := by
  unfold guardRange
  split
  · exact nofun
  · exact h

theorem keepsMode_pushAndJump (target : Word) : KeepsMode s.mode (s.pushAndJump target) := by
  obtain ⟨-, h⟩ | ⟨-, h⟩ := s.pushAndJump_cases target <;> rw [h]
  · rfl
  · exact nofun

theorem keepsMode_withKeyOperand (x : Nibble) {use : Nat → Result} (h : ∀ k, KeepsMode s.mode (use k)) :
    KeepsMode s.mode (s.withKeyOperand x use) := by
  obtain ⟨-, h'⟩ | ⟨-, h'⟩ := s.withKeyOperand_cases x use <;> rw [h']
  · exact h _
  · exact nofun

theorem keepsMode_execRet (s : State) : KeepsMode s.mode (execRet s) := by
  unfold execRet
  split
  · rfl
  · split <;> rfl

theorem keepsMode_execWkey (x : Nibble) (s : State) : KeepsMode s.mode (execWkey x s) := by
  unfold execWkey
  split <;> rfl

theorem keepsMode_execSkp (x : Nibble) (s : State) : KeepsMode s.mode (execSkp x s) :=
  keepsMode_withKeyOperand x fun _ => rfl

theorem keepsMode_execSknp (x : Nibble) (s : State) : KeepsMode s.mode (execSknp x s) :=
  keepsMode_withKeyOperand x fun _ => rfl

theorem keepsMode_execJmpv0 (nnn : Addr12) (s : State) : KeepsMode s.mode (execJmpv0 nnn s) := by
  unfold execJmpv0
  split
  · exact keepsMode_pushAndJump _
  · rfl

theorem keepsMode_execAddi (x : Nibble) (kk : Byte) (s : State) : KeepsMode s.mode (execAddi x kk s) := by
  unfold execAddi
  split
  · exact writeResultAndFlag_mode ..
  · rfl

/-- No instruction changes the mode, and none reports `NotLoaded`: the arms with a check of their own one by one, the
register writers by what they write, and every other one by a write that leaves the mode as it stands. -/
theorem keepsMode_exec (i : Instr) (s : State) : KeepsMode s.mode (exec i s) := by
  cases i
  case ret => exact keepsMode_execRet s
  case jmpv0 nnn => exact keepsMode_execJmpv0 nnn s
  case call nnn => exact keepsMode_pushAndJump _
  case skp x => exact keepsMode_execSkp x s
  case sknp x => exact keepsMode_execSknp x s
  case wkey x => exact keepsMode_execWkey x s
  case addi x kk => exact keepsMode_execAddi x kk s
  case or | and | xor => exact writeLogic_mode ..
  case add | sub | subn | shr | shl => exact writeResultAndFlag_mode ..
  case rnd => exact randomByte_mode
  case draw => exact keepsMode_guardRange _ _ rfl
  case bcd | stm => exact keepsMode_guardRange _ _ (writeBytes_mode ..)
  case ldm => exact keepsMode_guardRange _ _ (setRegistersFrom_mode ..)
  all_goals rfl

/-- Stated with the render pulse low, as a step executes its instruction. -/
theorem exec_lowerRender_mode {i : Instr} (h : exec i s.lowerRender = .next t) : t.mode = s.mode := by
  have hkeeps := keepsMode_exec i s.lowerRender
  rwa [h] at hkeeps

theorem exec_ne_notLoaded (i : Instr) (s : State) : exec i s ≠ .fault .notLoaded := by
  intro h
  have hkeeps := keepsMode_exec i s
  rw [h] at hkeeps
  exact hkeeps rfl

/-! ### The step command -/

/-- `NotLoaded` is the fetch's answer in mode `idle` only: in mode `loaded` it is a fault of the address or the word. -/
theorem mode_of_fetchInstr_notLoaded (h : s.fetchInstr = .error .notLoaded) : s.mode = .idle := by
  cases hm : s.mode with
  | idle => rfl
  | loaded =>
    unfold State.fetchInstr at h
    rw [hm] at h
    by_cases hip : s.ip.toNat ≤ 4094
    · rw [s.fetchWord_of_fits hip] at h
      simp only at h
      split at h <;> cases h
    · rw [s.fetchWord_of_not_fits (by omega)] at h
      cases h

/-- Everything a step command that leaves the state known can be. -/
theorem performStep_eq_done {r : Reply} (h : performStep s = .done t r) :
    (∃ f, s.fetchInstr = .error f ∧ t = s.lowerRender ∧ r = .fault f) ∨
    ∃ i, s.fetchInstr = .ok i ∧
      ((exec i s.lowerRender = .next t ∧ r = .ok) ∨
       (∃ f, exec i s.lowerRender = .fault f ∧ (∀ a, f ≠ .outOfBounds a) ∧ t = s.lowerRender ∧ r = .fault f) ∨
       (∃ e, exec i s.lowerRender = .refused e ∧ t = s ∧ r = .refused)) := by
  unfold performStep at h
  split at h
  next f hf =>
    cases h
    exact .inl ⟨f, hf, rfl, rfl⟩
  next i hi =>
    refine .inr ⟨i, hi, ?_⟩
    split at h <;> cases h
    next he => exact .inl ⟨he, rfl⟩
    next f hne he => exact .inr (.inl ⟨f, he, hne, rfl, rfl⟩)
    next e he => exact .inr (.inr ⟨e, he, rfl, rfl⟩)

theorem performStep_mode {r : Reply} (h : performStep s = .done t r) : t.mode = s.mode := by
  obtain ⟨f, -, rfl, -⟩ | ⟨i, -, ⟨he, -⟩ | ⟨f, -, -, rfl, -⟩ | ⟨e, -, rfl, -⟩⟩ := performStep_eq_done h
  · rfl
  · exact exec_lowerRender_mode he
  · rfl
  · rfl

theorem mode_of_performStep_notLoaded (h : performStep s = .done t (.fault .notLoaded)) : s.mode = .idle := by
  obtain ⟨f, hf, -, hr⟩ | ⟨i, -, ⟨-, hr⟩ | ⟨f, he, -, -, hr⟩ | ⟨e, -, -, hr⟩⟩ := performStep_eq_done h <;> cases hr
  · exact mode_of_fetchInstr_notLoaded hf
  · exact absurd he (exec_ne_notLoaded i _)

/-! ### Every command -/

theorem tick_mode (s : State) : s.tick.mode = s.mode := by
  unfold State.tick
  split <;> rfl

theorem doneOrRefused_eq_done {o : Option State} {r : Reply} (h : doneOrRefused s o = .done t r) :
    (o = some t ∧ r = .ok) ∨ (o = none ∧ t = s ∧ r = .refused) := by
  cases o <;> cases h
  · exact .inr ⟨rfl, rfl, rfl⟩
  · exact .inl ⟨rfl, rfl⟩

theorem hostSetRegister_eq_some {index value : Nat} (h : s.hostSetRegister index value = some t) :
    t = s.setV (BitVec.ofNat 4 index) (BitVec.ofNat 8 value) := by
  unfold State.hostSetRegister at h
  split at h <;> cases h
  rfl

theorem hostSetIp_eq_some {addr : Nat} (h : s.hostSetIp addr = some t) : t = s.setIp (BitVec.ofNat 16 addr) := by
  unfold State.hostSetIp at h
  split at h <;> cases h
  rfl

/-- A command keeps the mode or is an accepted load. -/
theorem perform_keeps_mode_or_loads {c : Command} {r : Reply} (h : perform c s = .done t r) :
    t.mode = s.mode ∨ ∃ bytes, c = .load bytes ∧ s.load bytes = some t ∧ r = .ok := by
  cases c with
  | step => exact .inl (performStep_mode h)
  | load bytes =>
    obtain ⟨hl, rfl⟩ | ⟨-, rfl, -⟩ := doneOrRefused_eq_done h
    · exact .inr ⟨bytes, rfl, hl, rfl⟩
    · exact .inl rfl
  | setRegister index value =>
    obtain ⟨hs, -⟩ | ⟨-, rfl, -⟩ := doneOrRefused_eq_done h
    · exact .inl (hostSetRegister_eq_some hs ▸ rfl)
    · exact .inl rfl
  | setIp addr =>
    obtain ⟨hs, -⟩ | ⟨-, rfl, -⟩ := doneOrRefused_eq_done h
    · exact .inl (hostSetIp_eq_some hs ▸ rfl)
    · exact .inl rfl
  | tick =>
    cases h
    exact .inl (tick_mode s)
  | getRegister index =>
    simp only [perform] at h
    split at h <;> cases h <;> exact .inl rfl
  | getPixel | setPixel | setKeys | supplyRandom =>
    cases h
    exact .inl rfl

/-! ### A transition of the machine -/

theorem stepInstruction_mode (h : stepInstruction s = .next t) : t.mode = s.mode := by
  obtain ⟨i, -, he⟩ := stepInstruction_eq_next h
  exact exec_lowerRender_mode he

theorem step_keeps_loaded (h : step s = .next t) (hm : s.mode = .loaded) : t.mode = .loaded := by
  obtain ⟨-, -, rfl⟩ | ⟨-, -, hs⟩ | ⟨cs, -, hs⟩ | ⟨c, cs, r, -, -, hp⟩ := step_eq_next h
  · exact (tick_mode s).trans hm
  · exact (stepInstruction_mode hs).trans hm
  · exact (stepInstruction_mode hs).trans hm
  · obtain hkept | ⟨bytes, -, hl, -⟩ := perform_keeps_mode_or_loads hp
    · exact hkept.trans hm
    · exact load_mode hl

end

section
open Sys2Proof Sys2Proof.Machine

/-- Settles O14: no instruction writes the mode, so a command that changes it is an accepted load. -/
theorem onlyLoadChangesTheMode : Obligations.OnlyLoadChangesTheMode := by
  unfold Obligations.OnlyLoadChangesTheMode
  refine ⟨rfl, fun s bytes hfits => ?load, fun c s t r hp hne => ?command,
    fun s t => mode_of_performStep_notLoaded, fun s t => step_keeps_loaded⟩
  case load =>
    obtain ⟨t, hl⟩ := exists_load_eq_some s hfits
    exact ⟨t, by simp only [perform, hl, doneOrRefused], load_mode hl⟩
  case command =>
    obtain hkept | ⟨bytes, hc, hl, hr⟩ := perform_keeps_mode_or_loads hp
    · exact absurd hkept hne
    · exact ⟨⟨bytes, hc⟩, hr, load_mode hl⟩

end
end Sys2Proof.Proofs

/-! The host's pixel commands (10_state.md R40). -/

namespace Sys2Proof.Proofs
section
open Sys2Proof Sys2Proof.Machine

theorem onlyChanges_setFb (s : State) (fb : Frame) : OnlyChanges [.screen] s (s.setFb fb) := by
  intro p hp
  cases p
  case screen => exact absurd (List.mem_singleton_self _) hp
  case registers | memory => exact fun _ => rfl
  all_goals rfl

/-- Settles O18: both commands are the screen's own reading and writing, which draw uses. -/
theorem pixelCommandsClampOffScreen : Obligations.PixelCommandsClampOffScreen := by
  unfold Obligations.PixelCommandsClampOffScreen
  refine ⟨fun s x y hx hy => ?on, fun s x y hoff => ?off, fun s x y b => ?set⟩
  case on =>
    have hpixel := Frame.pixel_eq s.fb x y hx hy
    exact ⟨by rw [perform, hpixel], hpixel⟩
  case off =>
    have hpixel := Frame.pixel_off_screen s.fb x y hoff
    exact ⟨by rw [perform, hpixel], hpixel⟩
  case set =>
    exact ⟨s.setFb (Frame.setPixel s.fb x y b), rfl, rfl, onlyChanges_setFb s _,
      fun x' y' => Frame.pixel_setPixel s.fb x y x' y' b⟩

end
end Sys2Proof.Proofs

/-! Reading and writing each register, by an instruction and by the host (10_state.md R21, R39). -/

namespace Sys2Proof.Proofs
section
open Sys2Proof Sys2Proof.Machine

variable (s : State)

theorem oneRegister_setV (r : Nibble) (b : Byte) : OneRegister r b s (s.setV r b) :=
  fun q => s.getV_setV r q b

theorem exec_li (r : Nibble) (b : Byte) : exec (.li r b) s = .next (s.setV r b).advance := rfl

theorem exec_mov (q r : Nibble) : exec (.mov q r) s = .next (s.setV q (s.getV r)).advance := rfl

/-- The sum goes to the register alone, or with the carry to VF where `ADDI_SETS_VF` asks for it (R102). -/
theorem exec_addi (x : Nibble) (kk : Byte) : exec (.addi x kk) s =
    .next (if s.cfg.addiSetsVf
      then s.writeResultAndFlag x ((s.getV x).toNat + kk.toNat) (carryFlag (s.getV x) kk)
      else s.setV x (BitVec.ofNat 8 ((s.getV x).toNat + kk.toNat))).advance := rfl

/-- A register index and a byte are always in the host's range. -/
theorem hostSetRegister_toNat (r : Nibble) (b : Byte) :
    s.hostSetRegister r.toNat b.toNat = some (s.setV r b) := by
  have hr : r.toNat ≤ 15 := by omega
  have hb : b.toNat ≤ 255 := by omega
  simp [State.hostSetRegister, hr, hb]

theorem hostGetRegister_toNat (r : Nibble) : s.hostGetRegister r.toNat = some (s.getV r) := by
  have hr : r.toNat ≤ 15 := by omega
  simp [State.hostGetRegister, hr]

theorem perform_setRegister_toNat (r : Nibble) (b : Byte) :
    perform (.setRegister r.toNat b.toNat) s = .done (s.setV r b) .ok := by
  simp only [perform, hostSetRegister_toNat, doneOrRefused]

theorem perform_getRegister_toNat (r : Nibble) :
    perform (.getRegister r.toNat) s = .done s (.value (s.getV r)) := by
  simp only [perform, hostGetRegister_toNat]

end

section
open Sys2Proof Sys2Proof.Machine

/-- Settles O19: every write of a register, the host's or an instruction's, is `setV`, and every reading `getV`. -/
theorem everyRegisterIsReadableAndWritable : Obligations.EveryRegisterIsReadableAndWritable := by
  unfold Obligations.EveryRegisterIsReadableAndWritable
  refine ⟨fun s r b => ?instruction, fun s r b => ?host, fun s x kk => ?addi, fun s t bytes => load_getV⟩
  case instruction =>
    refine ⟨(s.setV r b).advance, exec_li s r b, oneRegister_setV s r b, fun q => ?_⟩
    have hread : (s.setV r b).advance.getV r = b := s.getV_setV_same r b
    refine ⟨_, exec_mov _ q r, ?_⟩
    rw [hread]
    exact oneRegister_setV _ q b
  case host =>
    refine ⟨s.setV r b, perform_setRegister_toNat s r b, oneRegister_setV s r b, ?_⟩
    rw [perform_getRegister_toNat, State.getV_setV_same]
  case addi =>
    refine ⟨_, exec_addi s x kk, fun hflag => ?_⟩
    simp [hflag]

end
end Sys2Proof.Proofs

/-! The lookup of a word in the catalog (30_encoding.md R75). -/

namespace Sys2Proof.Proofs
section
open Sys2Proof

@[simp] theorem matchesWord_iff (m : Mnemonic) (w : Word) : m.matchesWord w = true ↔ w &&& m.mask = m.fixed :=
  beq_iff_eq

/-- `m` is the entry R75 asks for: it matches the word, and no matching entry fixes more bits. -/
structure IsMostSpecificMatch (p : Bool) (w : Word) (m : Mnemonic) : Prop where
  mem : m ∈ catalog p
  fixed_bits : w &&& m.mask = m.fixed
  specificity_le : ∀ n ∈ catalog p, w &&& n.mask = n.fixed → n.specificity ≤ m.specificity

/-- In a list of descending specificity, the first entry to pass a test is the most specific to pass it. -/
theorem specificity_le_of_find?_eq_some {l : List Mnemonic} {test : Mnemonic → Bool} {m n : Mnemonic}
    (hl : l.Pairwise (fun a b => b.specificity ≤ a.specificity)) (hm : l.find? test = some m) (hn : n ∈ l)
    (htest : test n = true) : n.specificity ≤ m.specificity := by
  obtain ⟨-, before, after, rfl, hfail⟩ := List.find?_eq_some_iff_append.mp hm
  obtain ⟨-, hfrom, -⟩ := List.pairwise_append.mp hl
  obtain hbefore | hfromM := List.mem_append.mp hn
  · have hfails := hfail n hbefore
    simp [htest] at hfails
  · obtain rfl | hafter := List.mem_cons.mp hfromM
    · exact le_rfl
    · exact List.rel_of_pairwise_cons hfrom hafter

theorem isMostSpecificMatch_of_find? {p : Bool} {w : Word} {m : Mnemonic}
    (h : (catalog p).find? (fun n => n.matchesWord w) = some m) : IsMostSpecificMatch p w m where
  mem := List.mem_of_find?_eq_some h
  fixed_bits := by simpa using List.find?_some h
  specificity_le n hn hmatch :=
    specificity_le_of_find?_eq_some (catalog_descending p) h hn ((matchesWord_iff n w).mpr hmatch)

/-- Two entries of the same specificity never match one word: the entries that overlap are `sys`, which fixes 4 bits,
and `cls` and `ret`, which fix 16 (R76). -/
theorem eq_of_matches_of_specificity_eq {m n : Mnemonic} {w : Word} (hm : m.matchesWord w = true)
    (hn : n.matchesWord w = true) (hspec : m.specificity = n.specificity) : m = n := by
  obtain heq | ⟨rfl, rfl | rfl⟩ | ⟨rfl, rfl | rfl⟩ := Mnemonic.eq_of_matches m n w hm hn
  · exact heq
  all_goals exact absurd hspec (by decide)

theorem IsMostSpecificMatch.unique {p : Bool} {w : Word} {m n : Mnemonic} (hm : IsMostSpecificMatch p w m)
    (hn : IsMostSpecificMatch p w n) : m = n :=
  eq_of_matches_of_specificity_eq ((matchesWord_iff m w).mpr hm.fixed_bits) ((matchesWord_iff n w).mpr hn.fixed_bits)
    (le_antisymm (hn.specificity_le m hm.mem hm.fixed_bits) (hm.specificity_le n hn.mem hn.fixed_bits))

/-- What the search of the catalog finds: the most specific match, which is the only one of its specificity. -/
theorem find?_catalog_eq_some_iff {p : Bool} {w : Word} {m : Mnemonic} :
    (catalog p).find? (fun n => n.matchesWord w) = some m ↔ IsMostSpecificMatch p w m := by
  refine ⟨isMostSpecificMatch_of_find?, fun hm => ?_⟩
  have hsome : ((catalog p).find? (fun n => n.matchesWord w)).isSome = true :=
    List.find?_isSome.mpr ⟨m, hm.mem, (matchesWord_iff m w).mpr hm.fixed_bits⟩
  obtain ⟨found, hfound⟩ := Option.isSome_iff_exists.mp hsome
  rw [hfound, (isMostSpecificMatch_of_find? hfound).unique hm]

theorem lookupByOpcode_eq_some_iff {p : Bool} {w : Word} {i : Instr} :
    lookupByOpcode p w = some i ↔ ∃ m, IsMostSpecificMatch p w m ∧ m.build w = i := by
  simp only [lookupByOpcode, Option.map_eq_some_iff, find?_catalog_eq_some_iff]

theorem lookupByOpcode_eq_none_iff {p : Bool} {w : Word} :
    lookupByOpcode p w = none ↔ ∀ n ∈ catalog p, w &&& n.mask ≠ n.fixed := by
  simp only [lookupByOpcode, Option.map_eq_none_iff, List.find?_eq_none, matchesWord_iff, ne_eq]

/-- Settles O6: the catalog stands in descending specificity, so the first match is a most specific one, and no other
match is as specific. -/
theorem lookupTakesTheMostSpecificMatch : Obligations.LookupTakesTheMostSpecificMatch := by
  unfold Obligations.LookupTakesTheMostSpecificMatch
  refine fun p w => ⟨fun i => lookupByOpcode_eq_some_iff.trans ⟨?toMatch, ?ofMatch⟩, lookupByOpcode_eq_none_iff⟩
  case toMatch =>
    rintro ⟨m, ⟨hmem, hmatch, hmax⟩, rfl⟩
    exact ⟨m, hmem, hmatch, rfl, hmax⟩
  case ofMatch =>
    rintro ⟨m, hmem, hmatch, rfl, hmax⟩
    exact ⟨m, ⟨hmem, hmatch, hmax⟩, rfl⟩

end
end Sys2Proof.Proofs

/-! The two bytes of an instruction in the decoder and the encoder (30_encoding.md R70). -/

namespace Sys2Proof.Proofs
section
open Sys2Proof Sys2Proof.Machine

theorem decode_of_lookup_eq_some {p : Bool} {hi lo : Byte} {i : Instr} (rest : List Byte)
    (h : lookupByOpcode p (hi ++ lo) = some i) : decode p (hi :: lo :: rest) = .ok (i, rest) := by
  simp only [decode, Word.ofBytes, h]

theorem decode_of_lookup_eq_none {p : Bool} {hi lo : Byte} (rest : List Byte)
    (h : lookupByOpcode p (hi ++ lo) = none) : decode p (hi :: lo :: rest) = .error (.undecodable (hi ++ lo)) := by
  simp only [decode, Word.ofBytes, h]

theorem exists_two_bytes_of_decode_eq_ok {p : Bool} {bytes : List Byte} {i : Instr} {rest : List Byte}
    (h : decode p bytes = .ok (i, rest)) :
    ∃ hi lo : Byte, bytes = hi :: lo :: rest ∧ lookupByOpcode p (hi ++ lo) = some i := by
  match bytes with
  | [] | [_] => cases h
  | hi :: lo :: tail =>
    cases hlookup : lookupByOpcode p (hi ++ lo) with
    | none =>
      rw [decode_of_lookup_eq_none tail hlookup] at h
      cases h
    | some j =>
      rw [decode_of_lookup_eq_some tail hlookup] at h
      cases h
      exact ⟨hi, lo, rfl, hlookup⟩

theorem decode_eq_ok_iff {p : Bool} {bytes : List Byte} {i : Instr} {rest : List Byte} :
    decode p bytes = .ok (i, rest) ↔
      ∃ hi lo : Byte, bytes = hi :: lo :: rest ∧ lookupByOpcode p (hi ++ lo) = some i := by
  refine ⟨exists_two_bytes_of_decode_eq_ok, ?_⟩
  rintro ⟨hi, lo, rfl, hlookup⟩
  exact decode_of_lookup_eq_some rest hlookup

theorem decode_of_length_lt_two {p : Bool} {bytes : List Byte} (h : bytes.length < 2) :
    decode p bytes = .error .tooShort := by
  match bytes with
  | [] | [_] => rfl
  | _ :: _ :: _ => simp at h

theorem hiByte_append_loByte (w : Word) : w.hiByte ++ w.loByte = w :=
  (BitVec.extractLsb'_append_extractLsb'_eq_extractLsb' rfl).trans BitVec.extractLsb'_eq_self

/-- Settles O7: the decoder takes the first two bytes as R12's big-endian pair, the encoder cuts its word into that
pair, and the fetch reads the pair at ip. -/
theorem everyInstructionIsTwoBigEndianBytes : Obligations.EveryInstructionIsTwoBigEndianBytes := by
  unfold Obligations.EveryInstructionIsTwoBigEndianBytes
  exact ⟨fun _ _ _ _ => decode_eq_ok_iff, fun _ _ => decode_of_length_lt_two,
    fun i => ⟨(encode i).hiByte, (encode i).loByte, rfl, hiByte_append_loByte (encode i)⟩,
    State.fetchWord_of_fits⟩

end
end Sys2Proof.Proofs

/-! The round trip of encoding and decoding (30_encoding.md R73, R82). -/

namespace Sys2Proof.Proofs
section
open Sys2Proof

/-! ### The operand fields of a word -/

theorem nnn_setWidth (w : Word) : (w.nnn.setWidth 16 : Word) = w &&& 0x0FFF := by
  ext k hk
  interval_cases k <;> simp [Word.nnn]

theorem x_kk_bits (w : Word) : (w.x.setWidth 16 <<< 8 : Word) ||| w.kk.setWidth 16 = w &&& 0x0FFF := by
  ext k hk
  interval_cases k <;> simp [Word.x, Word.kk]

theorem x_y_bits (w : Word) : (w.x.setWidth 16 <<< 8 : Word) ||| (w.y.setWidth 16 <<< 4) = w &&& 0x0FF0 := by
  ext k hk
  interval_cases k <;> simp [Word.x, Word.y]

theorem x_y_n_bits (w : Word) :
    (w.x.setWidth 16 <<< 8 : Word) ||| (w.y.setWidth 16 <<< 4) ||| w.n.setWidth 16 = w &&& 0x0FFF := by
  ext k hk
  interval_cases k <;> simp [Word.x, Word.y, Word.n]

theorem x_bits (w : Word) : (w.x.setWidth 16 <<< 8 : Word) = w &&& 0x0F00 := by
  ext k hk
  interval_cases k <;> simp [Word.x]

@[simp] theorem mnemonic_build (m : Mnemonic) (w : Word) : (m.build w).mnemonic = m := by
  cases m <;> rfl

/-- The operands an entry extracts are exactly the bits its mask leaves free (R72, R73). -/
theorem operandBits_build (m : Mnemonic) (w : Word) : (m.build w).operandBits = w &&& ~~~m.mask := by
  cases m
  case cls | ret => simp [Mnemonic.build, Instr.operandBits, Mnemonic.mask, Mnemonic.layout, Layout.mask]
  case sys | jmp | call | ldi | jmpv0 => exact nnn_setWidth w
  case sei | snei | li | addi | rnd => exact x_kk_bits w
  case draw => exact x_y_n_bits w
  case se | mov | or | and | xor | add | sub | shr | subn | shl | sne => exact x_y_bits w
  all_goals exact x_bits w

/-- Encoding what an entry extracts gives back a word that the entry matches (R82). -/
theorem encode_build {m : Mnemonic} {w : Word} (h : w &&& m.mask = m.fixed) : encode (m.build w) = w := by
  rw [encode, mnemonic_build, operandBits_build, ← h]
  ext k hk
  simp
  cases w[k] <;> simp

/-- An entry that is matched builds a well-formed instruction: `sys` only where it is an entry, and not at the words of
`cls` and `ret`, which are more specific (R76). -/
theorem wf_build {p : Bool} {w : Word} {m : Mnemonic} (h : IsMostSpecificMatch p w m) : (m.build w).wf p = true := by
  cases m
  case sys =>
    have hp : p = true := by
      have hmem := h.mem
      cases p
      · exact absurd hmem (by decide)
      · rfl
    have hw : encode (.sys w.nnn) = w := encode_build h.fixed_bits
    have hcls : w.nnn ≠ 0x0E0#12 := fun hn => by
      rw [hn] at hw
      exact absurd (h.specificity_le .cls (by cases p <;> decide) (hw ▸ rfl)) (by decide)
    have hret : w.nnn ≠ 0x0EE#12 := fun hn => by
      rw [hn] at hw
      exact absurd (h.specificity_le .ret (by cases p <;> decide) (hw ▸ rfl)) (by decide)
    simp [Mnemonic.build, Instr.wf, hp, hcls, hret]
  all_goals rfl

/-- Settles O4: an entry's operands are the bits its mask leaves free, and a matched word has its fixed ones. -/
theorem encodeOfDecodeIsTheWord : Obligations.EncodeOfDecodeIsTheWord := by
  unfold Obligations.EncodeOfDecodeIsTheWord
  intro p w i h
  obtain ⟨m, hm, rfl⟩ := lookupByOpcode_eq_some_iff.mp h
  exact ⟨wf_build hm, encode_build hm.fixed_bits⟩

/-! ### Decoding an encoded instruction -/

@[simp] theorem x_or (v w : Word) : Word.x (v ||| w) = Word.x v ||| Word.x w := BitVec.extractLsb'_or
@[simp] theorem y_or (v w : Word) : Word.y (v ||| w) = Word.y v ||| Word.y w := BitVec.extractLsb'_or
@[simp] theorem n_or (v w : Word) : Word.n (v ||| w) = Word.n v ||| Word.n w := BitVec.extractLsb'_or
@[simp] theorem kk_or (v w : Word) : Word.kk (v ||| w) = Word.kk v ||| Word.kk w := BitVec.extractLsb'_or
@[simp] theorem nnn_or (v w : Word) : Word.nnn (v ||| w) = Word.nnn v ||| Word.nnn w := BitVec.extractLsb'_or

@[simp] theorem x_of_shift8 (x : Nibble) : Word.x (x.setWidth 16 <<< 8) = x := by revert x; decide
@[simp] theorem x_of_shift4 (y : Nibble) : Word.x (y.setWidth 16 <<< 4) = 0 := by revert y; decide
@[simp] theorem x_of_nibble (n : Nibble) : Word.x (n.setWidth 16) = 0 := by revert n; decide
@[simp] theorem x_of_byte (kk : Byte) : Word.x (kk.setWidth 16) = 0 := by revert kk; decide
@[simp] theorem y_of_shift8 (x : Nibble) : Word.y (x.setWidth 16 <<< 8) = 0 := by revert x; decide
@[simp] theorem y_of_shift4 (y : Nibble) : Word.y (y.setWidth 16 <<< 4) = y := by revert y; decide
@[simp] theorem y_of_nibble (n : Nibble) : Word.y (n.setWidth 16) = 0 := by revert n; decide
@[simp] theorem n_of_shift8 (x : Nibble) : Word.n (x.setWidth 16 <<< 8) = 0 := by revert x; decide
@[simp] theorem n_of_shift4 (y : Nibble) : Word.n (y.setWidth 16 <<< 4) = 0 := by revert y; decide
@[simp] theorem n_of_nibble (n : Nibble) : Word.n (n.setWidth 16) = n := by revert n; decide
@[simp] theorem kk_of_shift8 (x : Nibble) : Word.kk (x.setWidth 16 <<< 8) = 0 := by revert x; decide
@[simp] theorem kk_of_byte (kk : Byte) : Word.kk (kk.setWidth 16) = kk := by revert kk; decide

@[simp] theorem nnn_of_addr (nnn : Addr12) : Word.nnn (nnn.setWidth 16) = nnn := by
  ext k hk
  simp [Word.nnn, BitVec.getLsbD_eq_getElem, hk, show k < 16 by omega]

/-- The fixed bits of an entry are outside its operand fields (R72). -/
theorem build_fixed_or (m : Mnemonic) (w : Word) : m.build (m.fixed ||| w) = m.build w := by
  cases m <;>
    simp [Mnemonic.build, Mnemonic.fixed, Word.nnn, Word.x, Word.y, Word.n, Word.kk, BitVec.extractLsb'_or]

/-- Each operand is put where its entry's layout takes it from. -/
theorem build_operandBits (i : Instr) : i.mnemonic.build i.operandBits = i := by
  cases i <;> simp [Instr.mnemonic, Instr.operandBits, Mnemonic.build]

theorem build_encode (i : Instr) : i.mnemonic.build (encode i) = i :=
  (build_fixed_or i.mnemonic i.operandBits).trans (build_operandBits i)

theorem mem_catalog_iff {p : Bool} {m : Mnemonic} : m ∈ catalog p ↔ (m = .sys → p = true) := by
  cases p <;> cases m <;> decide

theorem mnemonic_mem_catalog {p : Bool} {i : Instr} (h : i.wf p = true) : i.mnemonic ∈ catalog p := by
  rw [mem_catalog_iff]
  cases i
  case sys nnn => simp_all [Instr.wf]
  all_goals exact nofun

/-- A well-formed `sys` is not encoded as the word of `cls` or of `ret` (R76). -/
theorem encode_ne_of_wf_sys {p : Bool} {nnn : Addr12} (h : (Instr.sys nnn).wf p = true) :
    encode (.sys nnn) ≠ 0x00E0 ∧ encode (.sys nnn) ≠ 0x00EE := by
  have hbuild : Instr.sys (Word.nnn (encode (.sys nnn))) = .sys nnn := build_encode (.sys nnn)
  constructor <;> intro hw <;> rw [hw] at hbuild <;> cases hbuild <;> simp [Instr.wf, Word.nnn] at h

/-- No entry fixes more bits of an encoded instruction than its own: the only others that match a word are `cls` and
`ret` over `sys`, whose words no well-formed `sys` has. -/
theorem isMostSpecificMatch_encode {p : Bool} {i : Instr} (h : i.wf p = true) :
    IsMostSpecificMatch p (encode i) i.mnemonic where
  mem := mnemonic_mem_catalog h
  fixed_bits := Laws.Catalog.of_bits i
  specificity_le n hn hmatch := by
    obtain heq | ⟨hi, hn⟩ | ⟨rfl, hi⟩ := Mnemonic.eq_of_matches i.mnemonic n (encode i)
      ((matchesWord_iff _ _).mpr (Laws.Catalog.of_bits i)) ((matchesWord_iff _ _).mpr hmatch)
    · rw [heq]
    · cases i <;> cases hi
      obtain ⟨hcls, hret⟩ := encode_ne_of_wf_sys h
      obtain rfl | rfl := hn
      · exact absurd ((BitVec.and_allOnes).symm.trans hmatch) hcls
      · exact absurd ((BitVec.and_allOnes).symm.trans hmatch) hret
    · obtain hi | hi := hi <;> rw [hi] <;> decide

theorem lookupByOpcode_encode {p : Bool} {i : Instr} (h : i.wf p = true) : lookupByOpcode p (encode i) = some i :=
  lookupByOpcode_eq_some_iff.mpr ⟨i.mnemonic, isMostSpecificMatch_encode h, build_encode i⟩

/-- Settles O3: the instruction's own entry is the most specific match of its encoding, and extracts its operands. -/
theorem decodeOfEncodeIsTheInstruction : Obligations.DecodeOfEncodeIsTheInstruction := by
  unfold Obligations.DecodeOfEncodeIsTheInstruction
  intro p i rest h
  refine decode_of_lookup_eq_some rest ?_
  rw [hiByte_append_loByte]
  exact lookupByOpcode_encode h

end
end Sys2Proof.Proofs

/-! The opcode map and the words outside it (30_encoding.md R71, R77, R78). -/

namespace Sys2Proof.Proofs
section
open Sys2Proof

/-! ### The patterns of the opcode map, as fixed bits and operand bits -/

theorem append_addr (op : Nibble) (nnn : Addr12) :
    op ++ nnn = (op.setWidth 16 <<< 12 : Word) ||| nnn.setWidth 16 :=
  (BitVec.setWidth_eq _).symm.trans BitVec.setWidth_append_eq_shiftLeft_setWidth_or

theorem append_x_kk (op x : Nibble) (kk : Byte) :
    op ++ x ++ kk = (op.setWidth 16 <<< 12 : Word) ||| ((x.setWidth 16 <<< 8) ||| kk.setWidth 16) := by
  rw [← BitVec.or_assoc]
  exact (BitVec.setWidth_eq _).symm.trans BitVec.setWidth_append_append_eq_shiftLeft_setWidth_or

theorem append_x_low (op x : Nibble) (low : Byte) :
    op ++ x ++ low = ((op.setWidth 16 <<< 12 : Word) ||| low.setWidth 16) ||| (x.setWidth 16 <<< 8) := by
  rw [append_x_kk]
  ac_rfl

theorem append_x_y_n (op x y n : Nibble) :
    op ++ x ++ y ++ n =
      (op.setWidth 16 <<< 12 : Word) ||| ((x.setWidth 16 <<< 8) ||| (y.setWidth 16 <<< 4) ||| n.setWidth 16) := by
  rw [← BitVec.or_assoc, ← BitVec.or_assoc]
  exact (BitVec.setWidth_eq _).symm.trans BitVec.setWidth_append_append_append_eq_shiftLeft_setWidth_or

theorem append_x_y_low (op x y low : Nibble) :
    op ++ x ++ y ++ low =
      ((op.setWidth 16 <<< 12 : Word) ||| low.setWidth 16) ||| ((x.setWidth 16 <<< 8) ||| (y.setWidth 16 <<< 4)) := by
  rw [append_x_y_n]
  ac_rfl

theorem lookup_of_eq_encode {p : Bool} {w : Word} {i : Instr} (hw : w = encode i) (h : i.wf p = true) :
    lookupByOpcode p w = some i :=
  hw ▸ lookupByOpcode_encode h

/-- Settles O2: the word of each pattern is the encoding of its instruction. -/
theorem everyCatalogPatternDecodes : Obligations.EveryCatalogPatternDecodes := by
  unfold Obligations.EveryCatalogPatternDecodes
  refine ⟨fun p => ?cls, fun p => ?ret, fun nnn hcls hret => ?sys, fun p nnn => ?jmp, fun p nnn => ?call,
    fun p x kk => ?sei, fun p x kk => ?snei, fun p x y => ?se, fun p x kk => ?li, fun p x kk => ?addi,
    fun p x y => ?mov, fun p x y => ?or, fun p x y => ?and, fun p x y => ?xor, fun p x y => ?add, fun p x y => ?sub,
    fun p x y => ?shr, fun p x y => ?subn, fun p x y => ?shl, fun p x y => ?sne, fun p nnn => ?ldi, fun p nnn => ?jmpv0,
    fun p x kk => ?rnd, fun p x y n => ?draw, fun p x => ?skp, fun p x => ?sknp, fun p x => ?gdt, fun p x => ?wkey,
    fun p x => ?sdt, fun p x => ?sst, fun p x => ?iadd, fun p x => ?font, fun p x => ?bcd, fun p x => ?stm,
    fun p x => ?ldm⟩
  case cls | ret => exact lookup_of_eq_encode rfl rfl
  case sys => exact lookup_of_eq_encode (append_addr 0x0 nnn) (by simpa [Instr.wf] using And.intro hcls hret)
  case jmp | call | ldi | jmpv0 => exact lookup_of_eq_encode (append_addr _ nnn) rfl
  case sei | snei | li | addi | rnd => exact lookup_of_eq_encode (append_x_kk _ x kk) rfl
  case draw => exact lookup_of_eq_encode (append_x_y_n _ x y n) rfl
  case se | mov | or | and | xor | add | sub | shr | subn | shl | sne =>
    exact lookup_of_eq_encode (append_x_y_low _ x y _) rfl
  all_goals exact lookup_of_eq_encode (append_x_low _ x _) rfl

/-! ### The words outside the opcode map -/

/-- A mask of the top four bits and the low `k`. -/
theorem and_top_low {mask k : Nat} (htop : mask / 2 ^ 12 = 2 ^ 4 - 1) (hlow : mask % 2 ^ 12 = 2 ^ k - 1) (a : Nat) :
    a &&& mask = 2 ^ 12 * (a / 2 ^ 12 % 2 ^ 4) + a % 2 ^ 12 % 2 ^ k := by
  rw [← Nat.div_add_mod (a &&& mask) (2 ^ 12), Nat.and_div_two_pow, Nat.and_mod_two_pow, htop, hlow,
    Nat.and_two_pow_sub_one_eq_mod, Nat.and_two_pow_sub_one_eq_mod]

/-- The part of a word, as a number, that a layout fixes (R72). -/
def fixedPart (w : Nat) : Layout → Nat
  | .noArg => w
  | .reg => 4096 * (w / 4096) + w % 256
  | .regReg => 4096 * (w / 4096) + w % 16
  | .address12 | .regImm8 | .regRegImm4 => 4096 * (w / 4096)

theorem toNat_and_mask (w : Word) (l : Layout) : (w &&& l.mask).toNat = fixedPart w.toNat l := by
  have hw := w.isLt
  cases l
  case noArg => exact congrArg BitVec.toNat BitVec.and_allOnes
  case reg =>
    have h := and_top_low (mask := 0xF0FF) (k := 8) rfl rfl w.toNat
    simp only [fixedPart]
    exact h.trans (by omega)
  case regReg =>
    have h := and_top_low (mask := 0xF00F) (k := 4) rfl rfl w.toNat
    exact h.trans (by simp only [fixedPart]; omega)
  case address12 | regImm8 | regRegImm4 =>
    have h := and_top_low (mask := 0xF000) (k := 0) rfl rfl w.toNat
    exact h.trans (by simp only [fixedPart]; omega)

theorem matches_iff_fixedPart (m : Mnemonic) (w : Word) :
    w &&& m.mask = m.fixed ↔ fixedPart w.toNat m.layout = m.fixed.toNat := by
  rw [← toNat_and_mask, ← BitVec.toNat_inj, Mnemonic.mask]

/-- Settles O5: for each value of the top four bits, the few entries that fix those bits leave exactly the listed words
unmatched. -/
theorem undecodableWordsAreTheListedOnes : Obligations.UndecodableWordsAreTheListedOnes := by
  unfold Obligations.UndecodableWordsAreTheListedOnes
  intro p w
  have hcls : w ≠ 0x00E0 ↔ w.toNat ≠ 0x00E0 := BitVec.toNat_inj.not.symm
  have hret : w ≠ 0x00EE ↔ w.toNat ≠ 0x00EE := BitVec.toNat_inj.not.symm
  have hw : w.toNat < 65536 := w.isLt
  rw [lookupByOpcode_eq_none_iff, hcls, hret]
  simp only [ne_eq, matches_iff_fixedPart]
  generalize w.toNat = n at *
  obtain ⟨top, htop⟩ : ∃ top, n / 4096 = top := ⟨_, rfl⟩
  have htop_lt : top < 16 := by omega
  cases p
  case' false => simp [catalog, fixedPart, Mnemonic.layout, Mnemonic.fixed, htop]
  case' true => simp [catalog, fixedPart, Mnemonic.layout, Mnemonic.fixed, htop]
  all_goals interval_cases top <;> simp <;> omega

/-- Settles O1: the vectors' words are evaluated. -/
theorem specWordsDecodeAsListed : Obligations.SpecWordsDecodeAsListed := by
  unfold Obligations.SpecWordsDecodeAsListed
  decide

end
end Sys2Proof.Proofs

/-! What the operations with more than one answer answer, and which parts of the state each operation leaves as they are
(10_state.md R24-R36). -/

namespace Sys2Proof.Machine
section

/-- Frames one after the other. -/
theorem OnlyChanges.append {ps qs : List Part} {s t u : State} (h : OnlyChanges ps s t) (h' : OnlyChanges qs t u) :
    OnlyChanges (ps ++ qs) s u :=
  (h.mono fun _ => List.mem_append_left qs).trans (h'.mono fun _ => List.mem_append_right ps)

theorem OnlyChanges.refl (ps : List Part) (s : State) : OnlyChanges ps s s := by
  intro p _
  cases p <;> simp [Part.kept]

end
end Sys2Proof.Machine

namespace Sys2Proof.Proofs
section
open Sys2Proof Sys2Proof.Machine

variable {s t : State}

/-! ### The answers of the operations -/

theorem guardRange_eq_next {base len : Nat} {effect : Result} (h : guardRange base len effect = .next t) :
    (len = 0 ∨ base + len ≤ memSize) ∧ effect = .next t := by
  by_cases hfits : len = 0 ∨ base + len ≤ memSize
  · exact ⟨hfits, guardRange_of_fits base len effect hfits ▸ h⟩
  · rw [guardRange_of_not_fits base len effect (by omega) (by omega)] at h
    cases h

theorem pushAndJump_eq_next {target : Word} (h : s.pushAndJump target = .next t) :
    s.stackFull = false ∧ t = (s.pushed (s.ip + 2)).setIp target := by
  obtain ⟨hroom, h'⟩ | ⟨-, h'⟩ := s.pushAndJump_cases target <;> rw [h'] at h <;> cases h
  exact ⟨hroom, rfl⟩

theorem exec_jmpv0 (nnn : Addr12) (s : State) : exec (.jmpv0 nnn) s =
    if s.cfg.jumpV0Pushes then s.pushAndJump (s.indexedTarget nnn) else .next (s.setIp (s.indexedTarget nnn)) := rfl

theorem exec_jmpv0_eq_next {nnn : Addr12} (h : exec (.jmpv0 nnn) s = .next t) :
    (s.cfg.jumpV0Pushes = true ∧ s.stackFull = false ∧ t = (s.pushed (s.ip + 2)).setIp (s.indexedTarget nnn)) ∨
      (s.cfg.jumpV0Pushes = false ∧ t = s.setIp (s.indexedTarget nnn)) := by
  rw [exec_jmpv0] at h
  split at h
  next hpush => exact .inl ⟨hpush, pushAndJump_eq_next h⟩
  next hpush =>
    cases h
    exact .inr ⟨Bool.eq_false_iff.mpr hpush, rfl⟩

theorem exec_skp (x : Nibble) (s : State) : exec (.skp x) s =
    s.withKeyOperand x (fun k => .next (s.skipIf (s.keyDown k))) := rfl

theorem exec_sknp (x : Nibble) (s : State) : exec (.sknp x) s =
    s.withKeyOperand x (fun k => .next (s.skipIf (!s.keyDown k))) := rfl

theorem exec_skp_eq_next {x : Nibble} (h : exec (.skp x) s = .next t) :
    (s.getV x).toNat ≤ 15 ∧ t = s.skipIf (s.keyDown (s.getV x).toNat) := by
  rw [exec_skp] at h
  obtain ⟨hkey, h'⟩ | ⟨-, h'⟩ := s.withKeyOperand_cases x _ <;> rw [h'] at h <;> cases h
  exact ⟨hkey, rfl⟩

theorem exec_sknp_eq_next {x : Nibble} (h : exec (.sknp x) s = .next t) :
    (s.getV x).toNat ≤ 15 ∧ t = s.skipIf (!s.keyDown (s.getV x).toNat) := by
  rw [exec_sknp] at h
  obtain ⟨hkey, h'⟩ | ⟨-, h'⟩ := s.withKeyOperand_cases x _ <;> rw [h'] at h <;> cases h
  exact ⟨hkey, rfl⟩

theorem exec_ret (s : State) : exec .ret s = execRet s := rfl

theorem exec_wkey (x : Nibble) (s : State) : exec (.wkey x) s = execWkey x s := rfl

/-- A pop, or on an empty stack what `RET_EMPTY` says (R136). -/
theorem exec_ret_cases (s : State) :
    (∃ top rest, s.stack = top :: rest ∧ exec .ret s = .next ((s.setStack rest).setIp top)) ∨
      (s.stack = [] ∧ s.cfg.retEmpty = .stay ∧ exec .ret s = .next s) ∨
      (s.stack = [] ∧ s.cfg.retEmpty = .advance ∧ exec .ret s = .next s.advance) := by
  rw [exec_ret]
  unfold execRet
  cases s.stack with
  | cons top rest => exact .inl ⟨top, rest, rfl, rfl⟩
  | nil =>
    cases s.cfg.retEmpty with
    | stay => exact .inr (.inl ⟨rfl, rfl, rfl⟩)
    | advance => exact .inr (.inr ⟨rfl, rfl, rfl⟩)

/-- The wait, or a pressed key taken (R172). -/
theorem exec_wkey_cases (x : Nibble) (s : State) :
    (s.pressedKeys = [] ∧ exec (.wkey x) s = .next s) ∨
      ∃ k ∈ s.pressedKeys, exec (.wkey x) s = .next (s.useDraw.setV x (BitVec.ofNat 8 k)).advance := by
  rw [exec_wkey]
  unfold execWkey
  cases s.pressedKeys with
  | nil => exact .inl ⟨rfl, rfl⟩
  | cons k ks => exact .inr ⟨s.chooseKey k ks, s.chooseKey_mem k ks, rfl⟩

/-! ### The frames of the operations -/

theorem onlyChanges_v {v : Vector Byte 16} : OnlyChanges [.registers] s { s with v := v } := by
  intro p hp
  cases p <;> simp_all [Part.kept, State.readByte]

theorem onlyChanges_setV {r : Nibble} {b : Byte} : OnlyChanges [.registers] s (s.setV r b) := onlyChanges_v

theorem onlyChanges_setRegistersFrom {k : Nat} {bs : List Byte} :
    OnlyChanges [.registers] s (s.setRegistersFrom k bs) := by
  rw [State.setRegistersFrom_eq]
  exact onlyChanges_v

theorem onlyChanges_writeLogic {x : Nibble} {r : Byte} : OnlyChanges [.registers] s (s.writeLogic x r) := by
  rw [State.writeLogic_eq]
  exact onlyChanges_v

theorem onlyChanges_setI {w : Word} : OnlyChanges [.index] s (s.setI w) := by
  intro p hp
  cases p <;> simp_all [Part.kept]

theorem onlyChanges_setIp {w : Word} : OnlyChanges [.ip] s (s.setIp w) := onlyChanges_ip s w

theorem onlyChanges_setDt {b : Byte} : OnlyChanges [.delayTimer] s (s.setDt b) := by
  intro p hp
  cases p <;> simp_all [Part.kept]

theorem onlyChanges_setSt {b : Byte} : OnlyChanges [.soundTimer] s (s.setSt b) := by
  intro p hp
  cases p <;> simp_all [Part.kept]

theorem onlyChanges_setStack {ws : List Word} : OnlyChanges [.stack] s (s.setStack ws) := by
  intro p hp
  cases p <;> simp_all [Part.kept]

theorem onlyChanges_pushed {w : Word} : OnlyChanges [.stack] s (s.pushed w) := onlyChanges_setStack

theorem onlyChanges_requestRender : OnlyChanges [.renderRequest] s s.requestRender := by
  intro p hp
  cases p <;> simp_all [Part.kept]

theorem onlyChanges_useDraw : OnlyChanges [.freeValues] s s.useDraw := by
  intro p hp
  cases p <;> simp_all [Part.kept]

theorem onlyChanges_randomByte : OnlyChanges [.randomInput, .freeValues] s s.randomByte.2 := by
  obtain ⟨b, bs, -, h⟩ | ⟨-, h⟩ := s.randomByte_cases <;> rw [h] <;> intro p hp <;>
    cases p <;> simp_all [Part.kept, State.getV, State.readByte]

theorem onlyChanges_writeBytes {base : Nat} {bs : List Byte} : OnlyChanges [.memory] s (s.writeBytes base bs) := by
  rw [State.writeBytes_eq]
  intro p hp
  cases p <;> simp_all [Part.kept, State.getV]

/-- `stm` and `ldm` change I only where `LOADSTORE_I_MODE` says so (R195, R196). -/
theorem onlyChanges_setI_indexAfterTransfer {u : State} {x : Nibble} (hi : u.i = s.i) :
    OnlyChanges (if s.cfg.loadStoreMode = .unchanged then [] else [.index]) u (u.setI (s.indexAfterTransfer x)) := by
  split
  next hmode =>
    have hsame : u.setI (s.indexAfterTransfer x) = u := by
      simp only [State.indexAfterTransfer, hmode, ← hi]
      rfl
    rw [hsame]
    exact OnlyChanges.refl _ u
  · exact onlyChanges_setI

/-! ### The frame of an instruction -/

/-- Every instruction changes no part of the state but those the spec has it write: what it answers is a chain of the
operations above. -/
theorem exec_onlyChanges {i : Instr} (h : exec i s = .next t) : OnlyChanges (partsWritten s.cfg i) s t := by
  cases i
  case ret =>
    obtain ⟨top, rest, -, h'⟩ | ⟨-, -, h'⟩ | ⟨-, -, h'⟩ := exec_ret_cases s <;> rw [h'] at h <;> cases h
    · exact onlyChanges_setStack.append onlyChanges_setIp
    · exact OnlyChanges.refl _ s
    · exact onlyChanges_setIp.mono (by simp [partsWritten])
  case wkey x =>
    obtain ⟨-, h'⟩ | ⟨k, -, h'⟩ := exec_wkey_cases x s <;> rw [h'] at h <;> cases h
    · exact OnlyChanges.refl _ s
    · exact (onlyChanges_useDraw.append (onlyChanges_setV.append onlyChanges_setIp)).mono
        (by simp [partsWritten])
  case call =>
    obtain ⟨-, rfl⟩ := pushAndJump_eq_next h
    exact onlyChanges_pushed.append onlyChanges_setIp
  case jmpv0 =>
    obtain ⟨hpush, -, rfl⟩ | ⟨hpush, rfl⟩ := exec_jmpv0_eq_next h <;> simp only [partsWritten, hpush]
    · exact onlyChanges_pushed.append onlyChanges_setIp
    · exact onlyChanges_setIp
  case skp =>
    obtain ⟨-, rfl⟩ := exec_skp_eq_next h
    exact onlyChanges_setIp
  case sknp =>
    obtain ⟨-, rfl⟩ := exec_sknp_eq_next h
    exact onlyChanges_setIp
  case draw =>
    obtain ⟨-, h⟩ := guardRange_eq_next h
    cases h
    exact OnlyChanges.mono
      ((onlyChanges_setFb _ _).append (onlyChanges_setV.append (onlyChanges_setIp.append onlyChanges_requestRender)))
      (by simp [partsWritten])
  case bcd =>
    obtain ⟨-, h⟩ := guardRange_eq_next h
    cases h
    exact onlyChanges_writeBytes.append onlyChanges_setIp
  case stm x =>
    obtain ⟨-, h⟩ := guardRange_eq_next h
    cases h
    refine OnlyChanges.mono (onlyChanges_writeBytes.append
      ((onlyChanges_setI_indexAfterTransfer (onlyChanges_writeBytes .index (by decide))).append onlyChanges_setIp)) ?_
    simp only [partsWritten]
    split <;> decide
  case ldm x =>
    obtain ⟨-, h⟩ := guardRange_eq_next h
    cases h
    refine OnlyChanges.mono (onlyChanges_setRegistersFrom.append
      ((onlyChanges_setI_indexAfterTransfer (onlyChanges_setRegistersFrom .index (by decide))).append onlyChanges_setIp)) ?_
    simp only [partsWritten]
    split <;> decide
  case cls =>
    cases h
    exact ((onlyChanges_setFb _ _).append (onlyChanges_setIp.append onlyChanges_requestRender)).mono
      (by simp [partsWritten])
  case addi =>
    rw [exec_addi] at h
    split at h <;> cases h
    · exact onlyChanges_writeResultAndFlag _ _ _ _
    · exact onlyChanges_setV.append onlyChanges_setIp
  case or | and | xor =>
    cases h
    exact onlyChanges_writeLogic.append onlyChanges_setIp
  case add | sub | subn | shr | shl =>
    cases h
    exact onlyChanges_writeResultAndFlag _ _ _ _
  case rnd =>
    cases h
    exact (onlyChanges_randomByte.append (onlyChanges_setV.append onlyChanges_setIp)).mono
      (by simp [partsWritten])
  case li | mov | gdt =>
    cases h
    exact onlyChanges_setV.append onlyChanges_setIp
  case ldi | iadd | font =>
    cases h
    exact onlyChanges_setI.append onlyChanges_setIp
  case sdt =>
    cases h
    exact onlyChanges_setDt.append onlyChanges_setIp
  case sst =>
    cases h
    exact onlyChanges_setSt.append onlyChanges_setIp
  case sys | jmp | sei | snei | se | sne =>
    cases h
    exact onlyChanges_setIp

end
end Sys2Proof.Proofs

/-! The faults and the next address of every instruction (60_exceptions.md R210, 30_encoding.md R81 and R86). -/

namespace Sys2Proof.Proofs
section
open Sys2Proof Sys2Proof.Machine

variable {s t : State}

/-! ### The fault outcomes -/

theorem stackFull_eq_false_iff : s.stackFull = false ↔ s.hasRoom := by
  unfold State.stackFull State.hasRoom
  cases s.cfg.stackDepth <;> simp

/-- The outcomes R212, R214 and R215 name, each at its instructions. -/
def SpecFault (i : Instr) (s : State) (f : Fault) : Prop :=
  (∃ a, f = .outOfBounds a ∧ 4095 < a ∧
    ((∃ x y n, i = .draw x y n) ∨ (∃ x, i = .bcd x) ∨ (∃ x, i = .stm x) ∨ (∃ x, i = .ldm x))) ∨
  (f = .stackOverflow ∧ ¬ s.hasRoom ∧
    ((∃ nnn, i = .call nnn) ∨ (s.cfg.jumpV0Pushes = true ∧ ∃ nnn, i = .jmpv0 nnn))) ∨
  (∃ x, f = .keyOutOfRange (s.getV x) ∧ 15 < (s.getV x).toNat ∧ (i = .skp x ∨ i = .sknp x))

/-- An answer that is a next state or one of the faults in `P`, and no refusal. -/
def NextOrFault (P : Fault → Prop) (r : Result) : Prop := (∃ t, r = .next t) ∨ ∃ f, r = .fault f ∧ P f

theorem nextOrFault_guardRange {P : Fault → Prop} {base len : Nat} {t : State}
    (h : ∀ a, 4095 < a → P (.outOfBounds a)) : NextOrFault P (guardRange base len (.next t)) := by
  by_cases hfits : len = 0 ∨ base + len ≤ memSize
  · exact .inl ⟨t, guardRange_of_fits base len _ hfits⟩
  · exact .inr ⟨_, guardRange_of_not_fits base len _ (by omega) (by omega), h _ (by unfold memSize; omega)⟩

theorem nextOrFault_pushAndJump {P : Fault → Prop} (target : Word) (h : ¬ s.hasRoom → P .stackOverflow) :
    NextOrFault P (s.pushAndJump target) := by
  obtain ⟨-, hnext⟩ | ⟨hfull, hfault⟩ := s.pushAndJump_cases target
  · exact .inl ⟨_, hnext⟩
  · refine .inr ⟨_, hfault, h fun hroom => ?_⟩
    rw [stackFull_eq_false_iff.mpr hroom] at hfull
    cases hfull

theorem nextOrFault_withKeyOperand {P : Fault → Prop} (x : Nibble) (use : Nat → State)
    (h : 15 < (s.getV x).toNat → P (.keyOutOfRange (s.getV x))) :
    NextOrFault P (s.withKeyOperand x fun k => .next (use k)) := by
  obtain ⟨-, hnext⟩ | ⟨hkey, hfault⟩ := s.withKeyOperand_cases x fun k => .next (use k)
  · exact .inl ⟨_, hnext⟩
  · exact .inr ⟨_, hfault, h hkey⟩

/-- What an instruction can answer: the arms with a check of their own fault where it fails, and every other arm has a
next state. -/
theorem exec_nextOrFault (i : Instr) (s : State) : NextOrFault (SpecFault i s) (exec i s) := by
  cases i
  case draw x y n => exact nextOrFault_guardRange fun a ha => .inl ⟨a, rfl, ha, .inl ⟨x, y, n, rfl⟩⟩
  case bcd x => exact nextOrFault_guardRange fun a ha => .inl ⟨a, rfl, ha, .inr (.inl ⟨x, rfl⟩)⟩
  case stm x => exact nextOrFault_guardRange fun a ha => .inl ⟨a, rfl, ha, .inr (.inr (.inl ⟨x, rfl⟩))⟩
  case ldm x => exact nextOrFault_guardRange fun a ha => .inl ⟨a, rfl, ha, .inr (.inr (.inr ⟨x, rfl⟩))⟩
  case call nnn => exact nextOrFault_pushAndJump _ fun hfull => .inr (.inl ⟨rfl, hfull, .inl ⟨nnn, rfl⟩⟩)
  case jmpv0 nnn =>
    rw [exec_jmpv0]
    split
    next hpush => exact nextOrFault_pushAndJump _ fun hfull => .inr (.inl ⟨rfl, hfull, .inr ⟨hpush, nnn, rfl⟩⟩)
    · exact .inl ⟨_, rfl⟩
  case skp x =>
    rw [exec_skp]
    exact nextOrFault_withKeyOperand x _ fun hkey => .inr (.inr ⟨x, rfl, hkey, .inl rfl⟩)
  case sknp x =>
    rw [exec_sknp]
    exact nextOrFault_withKeyOperand x _ fun hkey => .inr (.inr ⟨x, rfl, hkey, .inr rfl⟩)
  case ret =>
    obtain ⟨_, _, -, h⟩ | ⟨-, -, h⟩ | ⟨-, -, h⟩ := exec_ret_cases s <;> exact .inl ⟨_, h⟩
  case wkey x =>
    obtain ⟨-, h⟩ | ⟨_, -, h⟩ := exec_wkey_cases x s <;> exact .inl ⟨_, h⟩
  all_goals exact .inl ⟨_, rfl⟩

theorem exec_ne_refused (i : Instr) (s : State) (r : Refusal) : exec i s ≠ .refused r := by
  obtain ⟨t, h⟩ | ⟨f, h, -⟩ := exec_nextOrFault i s <;> rw [h] <;> exact nofun

theorem specFault_of_exec_eq_fault {i : Instr} {f : Fault} (h : exec i s = .fault f) : SpecFault i s f := by
  obtain ⟨t, h'⟩ | ⟨f', h', hf⟩ := exec_nextOrFault i s <;> rw [h'] at h <;> cases h
  exact hf

/-! ### The next address -/

theorem writeBytes_ip (base : Nat) (bs : List Byte) : (s.writeBytes base bs).ip = s.ip :=
  onlyChanges_writeBytes .ip (by decide)

theorem setRegistersFrom_ip (k : Nat) (bs : List Byte) : (s.setRegistersFrom k bs).ip = s.ip :=
  onlyChanges_setRegistersFrom .ip (by decide)

theorem writeLogic_ip (x : Nibble) (r : Byte) : (s.writeLogic x r).ip = s.ip :=
  onlyChanges_writeLogic .ip (by decide)

theorem randomByte_ip : s.randomByte.2.ip = s.ip :=
  onlyChanges_randomByte .ip (by decide)

/-- `nnn + V[0]` never exceeds 16 bits (R134). -/
theorem toNat_indexedTarget (nnn : Addr12) : (s.indexedTarget nnn).toNat = nnn.toNat + (s.getV 0).toNat := by
  simp only [State.indexedTarget, BitVec.toNat_ofNat]
  omega

theorem pressedKeys_eq_nil_iff : s.pressedKeys = [] ↔ ∀ k : Fin 16, s.keys[k] = false := by
  simp only [List.eq_nil_iff_forall_not_mem, State.mem_pressedKeys, State.keyDown]
  constructor
  · intro h k
    simpa using h k.val
  · rintro h k ⟨hk, hdown⟩
    have := h ⟨k, hk⟩
    simp_all

/-- An instruction that ends with `ip <- a + 2` (R81). -/
theorem ip_mem_possibleNext_of_advance {i : Instr} {u : State} (hi : possibleNext i s.ip = [s.ip + 2])
    (hu : u.ip = s.ip) : u.advance.ip ∈ possibleNext i s.ip := by
  rw [hi, State.advance_ip, hu]
  exact List.mem_singleton_self _

/-- A skip (R131). -/
theorem ip_mem_possibleNext_of_skipIf {i : Instr} {c : Bool} (hi : possibleNext i s.ip = [s.ip + 2, s.ip + 4]) :
    (s.skipIf c).ip ∈ possibleNext i s.ip := by
  rw [hi, State.skipIf_ip]
  cases c <;> simp

/-- The next address is one that is known statically (R86), or the one the stack, the keys or V0 decide. -/
def NextIp (i : Instr) (s t : State) : Prop :=
  t.ip ∈ possibleNext i s.ip ∨
    ((∃ x, i = .wkey x) ∧ (∀ k : Fin 16, s.keys[k] = false) ∧ t.ip = s.ip) ∨
    (i = .ret ∧ (∃ rest, s.stack = t.ip :: rest)) ∨
    (i = .ret ∧ s.stack = [] ∧ t.ip = (match s.cfg.retEmpty with | .stay => s.ip | .advance => s.ip + 2)) ∨
    (∃ nnn, i = .jmpv0 nnn ∧ t.ip.toNat = nnn.toNat + (s.getV 0).toNat)

theorem exec_nextIp {i : Instr} (h : exec i s = .next t) : NextIp i s t := by
  cases i
  case ret =>
    obtain ⟨top, rest, hs, h'⟩ | ⟨hs, hempty, h'⟩ | ⟨hs, hempty, h'⟩ := exec_ret_cases s <;>
      rw [h'] at h <;> cases h
    · exact .inr (.inr (.inl ⟨rfl, rest, hs⟩))
    · exact .inr (.inr (.inr (.inl ⟨rfl, hs, by rw [hempty]⟩)))
    · exact .inr (.inr (.inr (.inl ⟨rfl, hs, by rw [hempty]; rfl⟩)))
  case jmpv0 nnn =>
    have hip : t.ip = s.indexedTarget nnn := by
      obtain ⟨-, -, rfl⟩ | ⟨-, rfl⟩ := exec_jmpv0_eq_next h <;> rfl
    exact .inr (.inr (.inr (.inr ⟨nnn, rfl, hip ▸ toNat_indexedTarget nnn⟩)))
  case wkey x =>
    obtain ⟨hkeys, h'⟩ | ⟨k, -, h'⟩ := exec_wkey_cases x s <;> rw [h'] at h <;> cases h
    · exact .inr (.inl ⟨⟨x, rfl⟩, pressedKeys_eq_nil_iff.mp hkeys, rfl⟩)
    · exact .inl (ip_mem_possibleNext_of_advance rfl rfl)
  case call nnn =>
    obtain ⟨-, rfl⟩ := pushAndJump_eq_next h
    exact .inl (List.mem_singleton_self _)
  case skp =>
    obtain ⟨-, rfl⟩ := exec_skp_eq_next h
    exact .inl (ip_mem_possibleNext_of_skipIf rfl)
  case sknp =>
    obtain ⟨-, rfl⟩ := exec_sknp_eq_next h
    exact .inl (ip_mem_possibleNext_of_skipIf rfl)
  case draw =>
    obtain ⟨-, h⟩ := guardRange_eq_next h
    cases h
    exact .inl (List.mem_singleton_self _)
  case bcd =>
    obtain ⟨-, h⟩ := guardRange_eq_next h
    cases h
    exact .inl (ip_mem_possibleNext_of_advance rfl (writeBytes_ip _ _))
  case stm =>
    obtain ⟨-, h⟩ := guardRange_eq_next h
    cases h
    exact .inl (ip_mem_possibleNext_of_advance rfl (writeBytes_ip _ _))
  case ldm =>
    obtain ⟨-, h⟩ := guardRange_eq_next h
    cases h
    exact .inl (ip_mem_possibleNext_of_advance rfl (setRegistersFrom_ip _ _))
  case addi =>
    rw [exec_addi] at h
    split at h <;> cases h
    · exact .inl (ip_mem_possibleNext_of_advance rfl (State.writeResultAndFlag_ip _ _ _ _))
    · exact .inl (ip_mem_possibleNext_of_advance rfl rfl)
  all_goals cases h
  case jmp | cls => exact .inl (List.mem_singleton_self _)
  case sei | snei | se | sne => exact .inl (ip_mem_possibleNext_of_skipIf rfl)
  case or | and | xor => exact .inl (ip_mem_possibleNext_of_advance rfl (writeLogic_ip _ _))
  case add | sub | subn | shr | shl =>
    exact .inl (ip_mem_possibleNext_of_advance rfl (State.writeResultAndFlag_ip _ _ _ _))
  case rnd => exact .inl (ip_mem_possibleNext_of_advance rfl randomByte_ip)
  all_goals exact .inl (ip_mem_possibleNext_of_advance rfl rfl)

end

section
open Sys2Proof Sys2Proof.Machine

/-- Settles O25: what an instruction answers is a chain of operations that each change one part. -/
theorem everyInstructionFrame : Obligations.EveryInstructionFrame := by
  unfold Obligations.EveryInstructionFrame
  exact fun i s t => exec_onlyChanges

/-- Settles O22: only the checks of the memory, stack and key operands fault. -/
theorem execFaultsAreTheSpecsOutcomes : Obligations.ExecFaultsAreTheSpecsOutcomes := by
  unfold Obligations.ExecFaultsAreTheSpecsOutcomes
  exact ⟨exec_ne_refused, fun i s f => specFault_of_exec_eq_fault⟩

/-- Settles O23, instruction by instruction. -/
theorem ipGoesWhereTheInstructionSays : Obligations.IpGoesWhereTheInstructionSays := by
  unfold Obligations.IpGoesWhereTheInstructionSays
  exact fun i s t => exec_nextIp

end
end Sys2Proof.Proofs

/-! The registers an instruction writes: the ALU, and the table of 10_state.md R24 (40_alu.md). -/

namespace Sys2Proof.Proofs
section
open Sys2Proof Sys2Proof.Machine

/-! ### The values -/

theorem ofNat_add_toNat (a b : Byte) : BitVec.ofNat 8 (a.toNat + b.toNat) = a + b := by
  apply BitVec.eq_of_toNat_eq
  simp

theorem ofNat_differenceByte (a b : Byte) : BitVec.ofNat 8 (differenceByte a b) = a - b := by
  apply BitVec.eq_of_toNat_eq
  simp only [differenceByte, BitVec.toNat_ofNat, BitVec.toNat_sub]
  omega

theorem flagByte_decide (p : Prop) [Decidable p] : flagByte (decide p) = if p then 1 else 0 := by
  by_cases h : p <;> simp [flagByte, h]

theorem ofNat_shiftRight_one (a : Byte) : BitVec.ofNat 8 (a.toNat >>> 1) = BitVec.ofNat 8 (a.toNat / 2) := by
  rw [Nat.shiftRight_eq_div_pow, pow_one]

theorem ofNat_shiftLeft_one (a : Byte) : BitVec.ofNat 8 (a.toNat <<< 1) = BitVec.ofNat 8 (2 * a.toNat % 256) := by
  apply BitVec.eq_of_toNat_eq
  simp only [BitVec.toNat_ofNat, Nat.shiftLeft_eq]
  omega

theorem shiftedOutRight_eq (a : Byte) : shiftedOutRight a = BitVec.ofNat 8 (a.toNat % 2) := by
  revert a
  decide

theorem shiftedOutLeft_eq (a : Byte) : shiftedOutLeft a = BitVec.ofNat 8 (a.toNat / 128) := by
  revert a
  decide

/-! ### An instruction whose one effect is a register write -/

variable {i : Instr} {s : State} {x : Nibble}

theorem exec_oneRegister {b : Byte} (h : exec i s = .next (s.setV x b).advance) :
    ∃ t, exec i s = .next t ∧ OneRegister x b s t ∧ t.ip = s.ip + 2 ∧ OnlyChanges [.registers, .ip] s t :=
  ⟨_, h, oneRegister_setV s x b, rfl, onlyChanges_setV.append onlyChanges_setIp⟩

theorem exec_resultAndFlag {r : Nat} {f r' f' : Byte} (h : exec i s = .next (s.writeResultAndFlag x r f).advance)
    (hr : BitVec.ofNat 8 r = r') (hf : f = f') :
    ∃ t, exec i s = .next t ∧ ResultAndFlag x r' f' s t ∧ t.ip = s.ip + 2 ∧
      OnlyChanges [.registers, .ip] s t := by
  subst hr hf
  exact ⟨_, h, resultAndFlag_writeResultAndFlag s x r f, by simp, onlyChanges_writeResultAndFlag s x r f⟩

/-- The result goes to the register alone, or with 0 to VF where `LOGIC_RESETS_VF` asks for it (R104). -/
theorem exec_logic {r : Byte} (h : exec i s = .next (s.writeLogic x r).advance) :
    ∃ t, exec i s = .next t ∧ (s.cfg.logicResetsVf = false → OneRegister x r s t) ∧
      (s.cfg.logicResetsVf = true → ResultAndFlag x r 0 s t) ∧ t.ip = s.ip + 2 ∧
      OnlyChanges [.registers, .ip] s t := by
  refine ⟨_, h, fun hkeep => ?keep, fun hreset => ?reset, by simp [writeLogic_ip],
    onlyChanges_writeLogic.append onlyChanges_setIp⟩
  case keep =>
    have hwrite : s.writeLogic x r = s.setV x r := by simp [State.writeLogic, hkeep]
    rw [hwrite]
    exact oneRegister_setV s x r
  case reset =>
    have hwrite : s.writeLogic x r = s.writeResultAndFlag x r.toNat 0 := by simp [State.writeLogic, hreset]
    have hregisters := resultAndFlag_writeResultAndFlag s x r.toNat 0
    rwa [BitVec.ofNat_toNat, BitVec.setWidth_eq, ← hwrite] at hregisters

/-! ### The registers no instruction writes -/

variable {r : Nibble} {t : State}

theorem getV_setV_of_ne {b : Byte} (hr : r ≠ x) : (s.setV x b).getV r = s.getV r := by
  rw [State.getV_setV, if_neg hr]

theorem getV_writeResultAndFlag_of_ne {n : Nat} {f : Byte} (hr : r ≠ x) (hflag : r ≠ flagIndex) :
    (s.writeResultAndFlag x n f).getV r = s.getV r := by
  rw [State.getV_writeResultAndFlag]
  cases s.cfg.vfWriteOrder <;> simp [hr, hflag]

theorem getV_writeLogic_of_ne {b : Byte} (hr : r ≠ x) (hflag : s.cfg.logicResetsVf = true → r ≠ flagIndex) :
    (s.writeLogic x b).getV r = s.getV r := by
  unfold State.writeLogic
  split
  next hreset => exact getV_writeResultAndFlag_of_ne hr (hflag hreset)
  · exact getV_setV_of_ne hr

theorem getD_readBytes {base len k : Nat} (h : k < len) : (s.readBytes base len).getD k 0 = s.readByte (base + k) := by
  rw [List.getD_eq_getElem?_getD, State.getElem?_readBytes s base len k h, Option.getD_some]

/-- `ldm vx` loads the registers up to x (R196). -/
theorem getV_setRegistersFrom_readBytes (base : Nat) :
    (s.setRegistersFrom 0 (s.readBytes base (x.toNat + 1))).getV r =
      if r.toNat ≤ x.toNat then s.readByte (base + r.toNat) else s.getV r := by
  have hlen : 0 + (s.readBytes base (x.toNat + 1)).length ≤ 16 := by rw [State.length_readBytes]; omega
  rw [State.getV_setRegistersFrom _ _ _ _ hlen, State.length_readBytes]
  by_cases hr : r.toNat ≤ x.toNat
  · rw [if_pos hr, if_pos (by omega), getD_readBytes (by omega), Nat.sub_zero]
  · rw [if_neg hr, if_neg (by omega)]

/-- A register outside the instruction's row of the table is as it was; where the row is empty, by the frame. -/
theorem exec_getV_of_not_writesRegister {i : Instr} (h : exec i s = .next t) (hr : writesRegister s.cfg i r = false) :
    t.getV r = s.getV r := by
  cases i
  case li x kk | mov x y | gdt x =>
    simp only [writesRegister, beq_eq_false_iff_ne] at hr
    cases h
    exact getV_setV_of_ne hr
  case add x y | sub x y | subn x y | shr x y | shl x y =>
    simp only [writesRegister, Bool.or_eq_false_iff, beq_eq_false_iff_ne] at hr
    obtain ⟨hne, hflag⟩ := hr
    cases h
    exact getV_writeResultAndFlag_of_ne hne hflag
  case or x y | and x y | xor x y =>
    simp only [writesRegister, Bool.or_eq_false_iff, Bool.and_eq_false_imp, beq_eq_false_iff_ne] at hr
    obtain ⟨hne, hflag⟩ := hr
    cases h
    exact getV_writeLogic_of_ne hne hflag
  case addi x kk =>
    simp only [writesRegister, Bool.or_eq_false_iff, Bool.and_eq_false_imp, beq_eq_false_iff_ne] at hr
    obtain ⟨hne, hflag⟩ := hr
    rw [exec_addi] at h
    split at h <;> cases h
    next hsets => exact getV_writeResultAndFlag_of_ne hne (hflag hsets)
    · exact getV_setV_of_ne hne
  case rnd x kk =>
    simp only [writesRegister, beq_eq_false_iff_ne] at hr
    cases h
    exact (getV_setV_of_ne hr).trans (onlyChanges_randomByte .registers (by decide) r)
  case wkey x =>
    simp only [writesRegister, beq_eq_false_iff_ne] at hr
    obtain ⟨-, h'⟩ | ⟨k, -, h'⟩ := exec_wkey_cases x s <;> rw [h'] at h <;> cases h
    · rfl
    · exact getV_setV_of_ne hr
  case draw x y n =>
    simp only [writesRegister, beq_eq_false_iff_ne] at hr
    obtain ⟨-, h⟩ := guardRange_eq_next h
    cases h
    exact getV_setV_of_ne hr
  case ldm x =>
    simp only [writesRegister, decide_eq_false_iff_not] at hr
    obtain ⟨-, h⟩ := guardRange_eq_next h
    cases h
    exact (getV_setRegistersFrom_readBytes _).trans (if_neg hr)
  case jmpv0 | stm => exact exec_onlyChanges h .registers (by simp only [partsWritten]; split <;> decide) r
  all_goals exact exec_onlyChanges h .registers (by simp [partsWritten]) r

end

section
open Sys2Proof Sys2Proof.Machine

/-- Settles O24: the frame, and for the instructions that write registers what each of their writes leaves. -/
theorem registersWrittenAreTheTabledOnes : Obligations.RegistersWrittenAreTheTabledOnes := by
  unfold Obligations.RegistersWrittenAreTheTabledOnes
  exact fun i s t r => exec_getV_of_not_writesRegister

/-- Settles O30. -/
theorem loadImmediateAndCopyWriteOneRegister : Obligations.LoadImmediateAndCopyWriteOneRegister := by
  unfold Obligations.LoadImmediateAndCopyWriteOneRegister
  exact ⟨fun x kk s => exec_oneRegister (exec_li s x kk), fun x y s => exec_oneRegister (exec_mov s x y)⟩

/-- Settles O31, for either value of `ADDI_SETS_VF`. -/
theorem addImmediateWraps : Obligations.AddImmediateWraps := by
  unfold Obligations.AddImmediateWraps
  intro x kk s
  have hexec := exec_addi s x kk
  cases hsets : s.cfg.addiSetsVf
  case false =>
    simp only [hsets] at hexec
    obtain ⟨t, ht, hregister, hrest⟩ := exec_oneRegister hexec
    rw [ofNat_add_toNat] at hregister
    exact ⟨t, ht, fun _ => hregister, nofun, hrest⟩
  case true =>
    simp only [hsets] at hexec
    obtain ⟨t, ht, hregisters, hrest⟩ := exec_resultAndFlag hexec (ofNat_add_toNat _ _) (flagByte_decide _)
    exact ⟨t, ht, nofun, fun _ => hregisters, hrest⟩

/-- Settles O32: the three differ in the result only. -/
theorem bitwiseLogicWritesTheResult : Obligations.BitwiseLogicWritesTheResult := by
  unfold Obligations.BitwiseLogicWritesTheResult
  exact ⟨fun _ _ _ => exec_logic rfl, fun _ _ _ => exec_logic rfl, fun _ _ _ => exec_logic rfl⟩

/-- Settles O33: the sum and its carry. -/
theorem addSetsCarry : Obligations.AddSetsCarry := by
  unfold Obligations.AddSetsCarry
  exact fun x y s => exec_resultAndFlag rfl (ofNat_add_toNat _ _) (flagByte_decide _)

/-- Settles O34: the difference modulo 256 and its strict borrow. -/
theorem subtractSetsBorrow : Obligations.SubtractSetsBorrow := by
  unfold Obligations.SubtractSetsBorrow
  exact ⟨fun x y s => exec_resultAndFlag rfl (ofNat_differenceByte _ _) (flagByte_decide _),
    fun x y s => exec_resultAndFlag rfl (ofNat_differenceByte _ _) (flagByte_decide _)⟩

/-- Settles O35: the source is the shift operand of `SHIFT_SOURCE`. -/
theorem shiftsMoveOneBitIntoVf : Obligations.ShiftsMoveOneBitIntoVf := by
  unfold Obligations.ShiftsMoveOneBitIntoVf
  intro x y s a ha
  replace ha : a = s.shiftOperand x y := ha
  subst ha
  exact ⟨exec_resultAndFlag rfl (ofNat_shiftRight_one _) (shiftedOutRight_eq _),
    exec_resultAndFlag rfl (ofNat_shiftLeft_one _) (shiftedOutLeft_eq _)⟩

end
end Sys2Proof.Proofs

/-! Jumps, the call-return stack and the skips (41_control_flow.md). -/

namespace Sys2Proof.Proofs
section
open Sys2Proof Sys2Proof.Machine

variable {s : State}

theorem toNat_addressOperand (nnn : Addr12) : (addressOperand nnn).toNat = nnn.toNat :=
  BitVec.toNat_setWidth_of_le (by decide)

theorem exec_call_of_hasRoom (nnn : Addr12) (h : s.hasRoom) :
    exec (.call nnn) s = .next ((s.pushed (s.ip + 2)).setIp (addressOperand nnn)) :=
  s.pushAndJump_of_room _ (stackFull_eq_false_iff.mpr h)

theorem stackFull_of_depth_le {depth : Nat} (hdepth : s.cfg.stackDepth = some depth) (h : depth ≤ s.stack.length) :
    s.stackFull = true := by
  simp [State.stackFull, hdepth, h]

/-- A skip on `c` moves ip by 4 where `c` holds and by 2 elsewhere (R131). -/
theorem exec_skip {i : Instr} {c : Bool} {w : Word} (h : exec i s = .next (s.skipIf c))
    (hw : (if c then s.ip + 4 else s.ip + 2) = w) :
    ∃ t, exec i s = .next t ∧ t.ip = w ∧ OnlyChanges [.ip] s t :=
  ⟨_, h, hw, onlyChanges_setIp⟩

theorem keyDown_of_toNat_eq {b : Byte} {k : Fin 16} (h : b.toNat = k.val) : s.keyDown b.toNat = s.keys[k] := by
  simp [State.keyDown, h]

theorem exec_skp_of_le {x : Nibble} (h : (s.getV x).toNat ≤ 15) :
    exec (.skp x) s = .next (s.skipIf (s.keyDown (s.getV x).toNat)) := by
  simp [exec_skp, State.withKeyOperand, Nat.not_lt.mpr h]

theorem exec_sknp_of_le {x : Nibble} (h : (s.getV x).toNat ≤ 15) :
    exec (.sknp x) s = .next (s.skipIf (!s.keyDown (s.getV x).toNat)) := by
  simp [exec_sknp, State.withKeyOperand, Nat.not_lt.mpr h]

end

section
open Sys2Proof Sys2Proof.Machine

/-- Settles O36. -/
theorem sysIsNoOpAndJmpGoesToTarget : Obligations.SysIsNoOpAndJmpGoesToTarget := by
  unfold Obligations.SysIsNoOpAndJmpGoesToTarget
  exact ⟨fun nnn s => ⟨s.advance, rfl, rfl, onlyChanges_setIp⟩,
    fun nnn s => ⟨s.setIp (addressOperand nnn), rfl, toNat_addressOperand nnn, onlyChanges_setIp⟩⟩

/-- Settles O37: the sum fits 16 bits, and the push is `call`'s. -/
theorem indexedJumpAddsV0 : Obligations.IndexedJumpAddsV0 := by
  unfold Obligations.IndexedJumpAddsV0
  intro nnn s h
  have hexec := exec_jmpv0 nnn s
  cases hpush : s.cfg.jumpV0Pushes with
  | false =>
    simp only [hpush] at hexec
    exact ⟨_, hexec, toNat_indexedTarget nnn, rfl, onlyChanges_setIp.mono (by decide)⟩
  | true =>
    have hroom : s.hasRoom := h.resolve_left (by simp [hpush])
    simp only [hpush, if_true, s.pushAndJump_of_room _ (stackFull_eq_false_iff.mpr hroom)] at hexec
    exact ⟨_, hexec, toNat_indexedTarget nnn, rfl, onlyChanges_pushed.append onlyChanges_setIp⟩

/-- Settles O38. -/
theorem callPushesTheReturnAddress : Obligations.CallPushesTheReturnAddress := by
  unfold Obligations.CallPushesTheReturnAddress
  intro nnn s hroom
  exact ⟨_, exec_call_of_hasRoom nnn hroom, rfl, toNat_addressOperand nnn,
    onlyChanges_pushed.append onlyChanges_setIp⟩

/-- Settles O39: both pushes are `pushAndJump`. -/
theorem pushOnFullStackFaults : Obligations.PushOnFullStackFaults := by
  unfold Obligations.PushOnFullStackFaults
  intro nnn s depth hdepth hle
  have hfull := stackFull_of_depth_le hdepth hle
  refine ⟨s.pushAndJump_of_full _ hfull, fun hpush => ?_⟩
  rw [exec_jmpv0, if_pos hpush]
  exact s.pushAndJump_of_full _ hfull

/-- Settles O40: by what the stack holds, and on an empty one by `RET_EMPTY`. -/
theorem retPopsOrActsAsRetEmptySays : Obligations.RetPopsOrActsAsRetEmptySays := by
  unfold Obligations.RetPopsOrActsAsRetEmptySays
  intro s
  obtain ⟨top, rest, hs, h⟩ | ⟨hs, hempty, h⟩ | ⟨hs, hempty, h⟩ := exec_ret_cases s
  · exact ⟨_, h, by simp [hs], by simp [hs], exec_onlyChanges h⟩
  · exact ⟨_, h, by simp [hs], by simp [hs, hempty], exec_onlyChanges h⟩
  · exact ⟨_, h, by simp [hs], by simp [hs, hempty], exec_onlyChanges h⟩

/-- Settles O41: the pop takes what the push left on top. -/
theorem callThenRetComesBack : Obligations.CallThenRetComesBack := by
  unfold Obligations.CallThenRetComesBack
  intro nnn s hroom
  refine ⟨_, exec_call_of_hasRoom nnn hroom, fun u hu => ?_⟩
  obtain ⟨w, hw, hpop, -⟩ := retPopsOrActsAsRetEmptySays u
  exact ⟨w, hw, hpop _ _ hu⟩

/-- Settles O42: the four differ in their condition only. -/
theorem skipsCompareAndMoveOnlyIp : Obligations.SkipsCompareAndMoveOnlyIp := by
  unfold Obligations.SkipsCompareAndMoveOnlyIp
  exact ⟨fun x kk s => exec_skip rfl (by simp), fun x kk s => exec_skip rfl (by simp),
    fun x y s => exec_skip rfl (by simp), fun x y s => exec_skip rfl (by simp)⟩

/-- Settles O43: the key operand is the number of key `k`. -/
theorem keySkipsTestTheNamedKey : Obligations.KeySkipsTestTheNamedKey := by
  unfold Obligations.KeySkipsTestTheNamedKey
  intro x s k hk
  have hle : (s.getV x).toNat ≤ 15 := by omega
  have hdown := keyDown_of_toNat_eq (s := s) hk
  exact ⟨exec_skip (exec_skp_of_le hle) (by rw [hdown]),
    exec_skip (exec_sknp_of_le hle) (by rw [hdown]; cases s.keys[k] <;> rfl)⟩

/-- Settles O44. -/
theorem keyNumberAboveFifteenFaults : Obligations.KeyNumberAboveFifteenFaults := by
  unfold Obligations.KeyNumberAboveFifteenFaults
  intro x s h
  exact ⟨if_pos h, if_pos h⟩

end
end Sys2Proof.Proofs

/-! The screen (42_display.md). -/

namespace Sys2Proof.Proofs
section
open Sys2Proof Sys2Proof.Machine

variable {s : State} {x y n : Nibble}

/-- The screen and the collision after the sprite of `draw vx, vy, n` is drawn. -/
def drawn (x y n : Nibble) (s : State) : Frame × Bool :=
  drawRows (s.getV x).toNat (s.getV y).toNat (s.readBytes s.indexAddress n.toNat) (s.fb, false)

/-- The state after `draw vx, vy, n` whose sprite is in memory. -/
def afterDraw (x y n : Nibble) (s : State) : State :=
  ((s.setFb (drawn x y n s).1).setV flagIndex (collisionFlag (drawn x y n s).2)).advance.requestRender

theorem exec_draw (x y n : Nibble) (s : State) :
    exec (.draw x y n) s = guardRange s.indexAddress n.toNat (.next (afterDraw x y n s)) := rfl

theorem exec_draw_of_fits (h : n = 0 ∨ s.i.toNat + n.toNat ≤ 4096) :
    exec (.draw x y n) s = .next (afterDraw x y n s) := by
  rw [exec_draw]
  exact guardRange_of_fits _ _ _ (h.imp_left fun hn => by rw [hn]; rfl)

theorem spriteAt_readBytes (px py : Nat) :
    spriteAt (s.getV x).toNat (s.getV y).toNat (s.readBytes s.indexAddress n.toNat) px py ↔
      SpriteBit x y n s px py := by
  unfold spriteAt SpriteBit
  rw [State.length_readBytes]
  have hbyte (hlo : (s.getV y).toNat ≤ py) (hhi : py < (s.getV y).toNat + n.toNat) :
      (s.readBytes s.indexAddress n.toNat).getD (py - (s.getV y).toNat) 0 =
        s.readByte (s.i.toNat + (py - (s.getV y).toNat)) := getD_readBytes (by omega)
  constructor
  · rintro ⟨h1, h2, hlo, hhi, hbit⟩
    exact ⟨h1, h2, hlo, hhi, hbyte hlo hhi ▸ hbit⟩
  · rintro ⟨h1, h2, hlo, hhi, hbit⟩
    exact ⟨h1, h2, hlo, hhi, (hbyte hlo hhi).symm ▸ hbit⟩

theorem xor_decide_eq_true_iff (b : Bool) (p : Prop) [Decidable p] :
    (b ^^ decide p) = true ↔ ¬ (b = true ↔ p) := by
  cases b <;> by_cases hp : p <;> simp [hp]

/-- Each on-screen pixel is inverted where the sprite has a bit (R161). -/
theorem pixel_afterDraw (px py : Nat) :
    (Frame.pixel (afterDraw x y n s).fb px py = true ↔
      ¬ (Frame.pixel s.fb px py = true ↔ px < 64 ∧ py < 32 ∧ SpriteBit x y n s px py)) := by
  have hpixel : Frame.pixel (afterDraw x y n s).fb px py = Frame.pixel (drawn x y n s).1 px py := rfl
  rw [hpixel, drawn, pixel_drawRows, xor_decide_eq_true_iff, spriteAt_readBytes]

theorem collisionFlag_eq_one_iff (c : Bool) : collisionFlag c = 1 ↔ c = true := by
  cases c <;> decide

theorem collisionFlag_eq (c : Bool) : collisionFlag c = 1 ∨ collisionFlag c = 0 := by
  cases c <;> decide

theorem on_screen_of_pixel {fb : Frame} {px py : Nat} (h : Frame.pixel fb px py = true) : px < 64 ∧ py < 32 := by
  by_contra hoff
  rw [Frame.pixel_off_screen fb px py (by omega)] at h
  cases h

theorem getV_afterDraw_flag : (afterDraw x y n s).getV 15 = collisionFlag (drawn x y n s).2 :=
  State.getV_setV_same _ flagIndex _

theorem getV_afterDraw_of_ne {r : Nibble} (hr : r ≠ 15) : (afterDraw x y n s).getV r = s.getV r :=
  getV_setV_of_ne hr

/-- VF tells whether a sprite bit lies over a pixel that was on (R161). -/
theorem flag_afterDraw_eq_one_iff : (afterDraw x y n s).getV 15 = 1 ↔
    ∃ px py, px < 64 ∧ py < 32 ∧ SpriteBit x y n s px py ∧ Frame.pixel s.fb px py = true := by
  rw [getV_afterDraw_flag, collisionFlag_eq_one_iff, drawn, collision_drawRows]
  simp only [spriteAt_readBytes, Bool.false_eq_true, false_or]
  constructor
  · rintro ⟨px, py, hbit, hon⟩
    obtain ⟨hx, hy⟩ := on_screen_of_pixel hon
    exact ⟨px, py, hx, hy, hbit, hon⟩
  · rintro ⟨px, py, -, -, hbit, hon⟩
    exact ⟨px, py, hbit, hon⟩

/-- The same sprite is drawn again where neither coordinate is VF. -/
theorem spriteBit_afterDraw (hx : x ≠ 15) (hy : y ≠ 15) (px py : Nat) :
    SpriteBit x y n (afterDraw x y n s) px py ↔ SpriteBit x y n s px py := by
  simp only [SpriteBit, getV_afterDraw_of_ne hx, getV_afterDraw_of_ne hy]
  rfl

end

section
open Sys2Proof Sys2Proof.Machine

/-- Settles O45. -/
theorem clsTurnsEveryPixelOff : Obligations.ClsTurnsEveryPixelOff := by
  unfold Obligations.ClsTurnsEveryPixelOff
  intro s
  refine ⟨_, rfl, Frame.pixel_blank, rfl, rfl, ?_⟩
  exact exec_onlyChanges (i := .cls) rfl

/-- Settles O46: drawing a sprite inverts the pixels under its bits and collides where one was on. -/
theorem drawXorsTheSpriteAndReportsCollision : Obligations.DrawXorsTheSpriteAndReportsCollision := by
  unfold Obligations.DrawXorsTheSpriteAndReportsCollision
  intro x y n s hfits
  have hexec := exec_draw_of_fits (x := x) (y := y) hfits
  refine ⟨_, hexec, fun px py hx hy => ?_, ?_, flag_afterDraw_eq_one_iff, fun r => getV_afterDraw_of_ne, rfl, rfl,
    (exec_onlyChanges hexec).mono (by simp [partsWritten])⟩
  · simpa [hx, hy] using pixel_afterDraw (x := x) (y := y) (n := n) (s := s) px py
  · rw [getV_afterDraw_flag]
    exact collisionFlag_eq _

/-- Settles O47: the second sprite is the first, and inverting the same pixels twice restores them. -/
theorem drawingTwiceRestoresTheScreen : Obligations.DrawingTwiceRestoresTheScreen := by
  unfold Obligations.DrawingTwiceRestoresTheScreen
  intro x y n s hx hy hfits
  refine ⟨_, _, exec_draw_of_fits hfits, exec_draw_of_fits hfits, fun px py => ?screen, ?flag⟩
  case screen =>
    rw [Bool.eq_iff_iff, pixel_afterDraw, pixel_afterDraw, spriteBit_afterDraw hx hy]
    tauto
  case flag =>
    rw [flag_afterDraw_eq_one_iff]
    simp only [spriteBit_afterDraw hx hy, pixel_afterDraw, Bool.eq_false_iff]
    refine exists_congr fun px => exists_congr fun py => ?_
    tauto

end
end Sys2Proof.Proofs

/-! The random byte, the timers, the key wait, and the index register and memory (43_io_timers_random.md,
44_index_memory.md). -/

namespace Sys2Proof.Proofs
section
open Sys2Proof Sys2Proof.Machine

variable {s : State} {x : Nibble}

theorem exec_rnd (x : Nibble) (kk : Byte) (s : State) :
    exec (.rnd x kk) s = .next (s.randomByte.2.setV x (s.randomByte.1 &&& kk)).advance := rfl

/-- The registers after `rnd`: the draw leaves them, and its masked value is written (R170). -/
theorem oneRegister_rnd (x : Nibble) (kk : Byte) (s : State) :
    OneRegister x (s.randomByte.1 &&& kk) s (s.randomByte.2.setV x (s.randomByte.1 &&& kk)).advance := by
  intro q
  rw [State.advance_getV, State.getV_setV, onlyChanges_randomByte .registers (by decide) q]

/-! ### Index values -/

theorem toNat_and_fifteen (b : Byte) : (b &&& 0x0F).toNat = b.toNat % 16 :=
  Nat.and_two_pow_sub_one_eq_mod b.toNat 4

theorem toNat_glyphAddress (x : Nibble) (s : State) :
    (s.glyphAddress x).toNat = s.cfg.fontStride * ((s.getV x).toNat % 16) % 65536 := by
  rw [State.glyphAddress, BitVec.toNat_ofNat, toNat_and_fifteen, fontBase, Nat.zero_add]

theorem toNat_indexAfterTransfer (x : Nibble) (s : State) :
    (s.indexAfterTransfer x).toNat = (match s.cfg.loadStoreMode with
      | .unchanged => s.i.toNat
      | .plusXPlus1 => (s.i.toNat + x.toNat + 1) % 65536
      | .plusX => (s.i.toNat + x.toNat) % 65536) := by
  unfold State.indexAfterTransfer
  cases s.cfg.loadStoreMode <;> simp

theorem exec_setI {i : Instr} {w : Word} {n : Nat} (h : exec i s = .next (s.setI w).advance) (hw : w.toNat = n) :
    ∃ t, exec i s = .next t ∧ t.i.toNat = n ∧ t.ip = s.ip + 2 ∧ OnlyChanges [.index, .ip] s t :=
  ⟨_, h, hw, rfl, onlyChanges_setI.append onlyChanges_setIp⟩

/-! ### The data accesses -/

/-- The state after `bcd vx` whose bytes are in memory. -/
def afterBcd (x : Nibble) (s : State) : State :=
  (s.writeBytes s.indexAddress (decimalDigits (s.getV x))).advance

/-- The state after `stm vx` whose bytes are in memory. -/
def afterStm (x : Nibble) (s : State) : State :=
  ((s.writeBytes s.indexAddress (s.lowRegisters (x.toNat + 1))).setI (s.indexAfterTransfer x)).advance

/-- The state after `ldm vx` whose bytes are in memory. -/
def afterLdm (x : Nibble) (s : State) : State :=
  ((s.setRegistersFrom 0 (s.readBytes s.indexAddress (x.toNat + 1))).setI (s.indexAfterTransfer x)).advance

theorem exec_bcd (x : Nibble) (s : State) : exec (.bcd x) s = guardRange s.indexAddress 3 (.next (afterBcd x s)) := rfl

theorem exec_stm (x : Nibble) (s : State) :
    exec (.stm x) s = guardRange s.indexAddress (x.toNat + 1) (.next (afterStm x s)) := rfl

theorem exec_ldm (x : Nibble) (s : State) :
    exec (.ldm x) s = guardRange s.indexAddress (x.toNat + 1) (.next (afterLdm x s)) := rfl

theorem exec_bcd_of_fits (h : s.i.toNat + 3 ≤ 4096) : exec (.bcd x) s = .next (afterBcd x s) :=
  guardRange_of_fits _ _ _ (.inr h)

theorem exec_stm_of_fits (h : s.i.toNat + x.toNat + 1 ≤ 4096) : exec (.stm x) s = .next (afterStm x s) :=
  guardRange_of_fits _ _ _ (.inr h)

theorem exec_ldm_of_fits (h : s.i.toNat + x.toNat + 1 ≤ 4096) : exec (.ldm x) s = .next (afterLdm x s) :=
  guardRange_of_fits _ _ _ (.inr h)

theorem readByte_afterBcd (a : Nat) : (afterBcd x s).readByte a =
    if s.i.toNat ≤ a ∧ a < s.i.toNat + 3 then (decimalDigits (s.getV x)).getD (a - s.i.toNat) 0 else s.readByte a :=
  s.readByte_writeBytes _ _ a

theorem readByte_afterStm (a : Nat) : (afterStm x s).readByte a =
    if s.i.toNat ≤ a ∧ a < s.i.toNat + (x.toNat + 1) then s.getV (BitVec.ofNat 4 (a - s.i.toNat))
    else s.readByte a := by
  have hread : (afterStm x s).readByte a = _ := s.readByte_writeBytes (s.lowRegisters (x.toNat + 1)) s.i.toNat a
  rw [hread, State.length_lowRegisters]
  split
  · rw [State.getD_lowRegisters s _ _ (by omega)]
  · rfl

/-- The byte stored for a register `stm` stores. -/
theorem readByte_afterStm_of_le {k : Nat} (hk : k ≤ x.toNat) :
    (afterStm x s).readByte (s.i.toNat + k) = s.getV (BitVec.ofNat 4 k) := by
  rw [readByte_afterStm, if_pos (by omega), Nat.add_sub_cancel_left]

theorem getV_afterLdm (k : Nibble) : (afterLdm x s).getV k =
    if k.toNat ≤ x.toNat then s.readByte (s.i.toNat + k.toNat) else s.getV k :=
  getV_setRegistersFrom_readBytes s.i.toNat

theorem afterBcd_ip : (afterBcd x s).ip = s.ip + 2 := by
  rw [afterBcd, State.advance_ip, writeBytes_ip]

theorem afterStm_ip : (afterStm x s).ip = s.ip + 2 := by
  rw [afterStm, State.advance_ip, State.setI_ip, writeBytes_ip]

theorem afterLdm_ip : (afterLdm x s).ip = s.ip + 2 := by
  rw [afterLdm, State.advance_ip, State.setI_ip, setRegistersFrom_ip]

theorem partsWritten_stm_subset (cfg : Config) (x : Nibble) :
    ∀ p ∈ partsWritten cfg (.stm x), p ∈ [Part.memory, .index, .ip] := by
  simp only [partsWritten]
  split <;> decide

theorem partsWritten_ldm_subset (cfg : Config) (x : Nibble) :
    ∀ p ∈ partsWritten cfg (.ldm x), p ∈ [Part.registers, .index, .ip] := by
  simp only [partsWritten]
  split <;> decide

theorem ofNat_toNat_nibble (k : Nibble) : BitVec.ofNat 4 k.toNat = k := by simp

end

section
open Sys2Proof Sys2Proof.Machine

/-- Settles O48: by whether the host has supplied a draw. -/
theorem randomByteIsMasked : Obligations.RandomByteIsMasked := by
  unfold Obligations.RandomByteIsMasked
  intro x kk s
  have hframe := exec_onlyChanges (exec_rnd x kk s)
  have hregister := oneRegister_rnd x kk s
  refine ⟨_, exec_rnd x kk s, ?register, fun hkk => ?zero, ?rand, ?draws, ?ip, hframe⟩
  case zero =>
    rw [hregister x, if_pos rfl, hkk]
    exact BitVec.and_zero
  case ip => rw [State.advance_ip, State.setV_ip, randomByte_ip]
  all_goals
    obtain ⟨b, bs, hrand, h⟩ | ⟨hrand, h⟩ := s.randomByte_cases <;> simp_all

/-- Settles O49. -/
theorem timerRegistersAreReadAndWritten : Obligations.TimerRegistersAreReadAndWritten := by
  unfold Obligations.TimerRegistersAreReadAndWritten
  exact ⟨fun x s => exec_oneRegister rfl,
    fun x s => ⟨_, rfl, rfl, rfl, onlyChanges_setDt.append onlyChanges_setIp⟩,
    fun x s => ⟨_, rfl, rfl, rfl, onlyChanges_setSt.append onlyChanges_setIp⟩⟩

/-- Settles O50: the chosen key is one of the pressed ones. -/
theorem waitForKeyTakesAPressedKey : Obligations.WaitForKeyTakesAPressedKey := by
  unfold Obligations.WaitForKeyTakesAPressedKey
  rintro x s ⟨k, hk⟩
  obtain ⟨hnone, -⟩ | ⟨j, hj, hexec⟩ := exec_wkey_cases x s
  · rw [pressedKeys_eq_nil_iff.mp hnone k] at hk
    cases hk
  · obtain ⟨hlt, hdown⟩ := (s.mem_pressedKeys j).mp hj
    have hpressed : s.keys[(⟨j, hlt⟩ : Fin 16)] = true := by simpa [State.keyDown, hlt] using hdown
    exact ⟨_, ⟨j, hlt⟩, hexec, hpressed, fun q => State.getV_setV _ x q _, rfl, rfl, rfl,
      (onlyChanges_useDraw.append (onlyChanges_setV.append onlyChanges_setIp)).mono (by decide)⟩

/-- Settles O51. -/
theorem waitForKeyStaysWithNoKey : Obligations.WaitForKeyStaysWithNoKey := by
  unfold Obligations.WaitForKeyStaysWithNoKey
  intro x s hnone
  obtain ⟨-, hexec⟩ | ⟨j, hj, -⟩ := exec_wkey_cases x s
  · exact hexec
  · rw [pressedKeys_eq_nil_iff.mpr hnone] at hj
    cases hj

/-- Settles O52. -/
theorem indexRegisterIsLoadedAddedAndPointed : Obligations.IndexRegisterIsLoadedAddedAndPointed := by
  unfold Obligations.IndexRegisterIsLoadedAddedAndPointed
  exact ⟨fun nnn s => exec_setI rfl (toNat_addressOperand nnn), fun x s => exec_setI rfl (BitVec.toNat_ofNat _ _),
    fun x s => exec_setI rfl (toNat_glyphAddress x s)⟩

/-- Settles O53: each of the three digits is below 256. -/
theorem bcdStoresThreeDecimalDigits : Obligations.BcdStoresThreeDecimalDigits := by
  unfold Obligations.BcdStoresThreeDecimalDigits
  intro x s hfits
  have hlt : (s.getV x).toNat < 256 := (s.getV x).isLt
  have hexec := exec_bcd_of_fits (x := x) hfits
  refine ⟨_, hexec, ?hundreds, ?tens, ?ones, fun a ha => ?others, afterBcd_ip, exec_onlyChanges hexec⟩
  case others => rw [readByte_afterBcd, if_neg (by omega)]
  case hundreds | tens | ones =>
    rw [readByte_afterBcd, if_pos (by omega)]
    simp [decimalDigits]
    omega

/-- Settles O54. -/
theorem stmStoresTheLowRegisters : Obligations.StmStoresTheLowRegisters := by
  unfold Obligations.StmStoresTheLowRegisters
  intro x s hfits
  have hexec := exec_stm_of_fits hfits
  refine ⟨_, hexec, fun k hk => ?stored, fun a ha => ?others, toNat_indexAfterTransfer x s, afterStm_ip,
    (exec_onlyChanges hexec).mono (partsWritten_stm_subset _ x)⟩
  case stored => rw [readByte_afterStm_of_le hk, ofNat_toNat_nibble]
  case others => rw [readByte_afterStm, if_neg (by omega)]

/-- Settles O55. -/
theorem ldmLoadsTheLowRegisters : Obligations.LdmLoadsTheLowRegisters := by
  unfold Obligations.LdmLoadsTheLowRegisters
  intro x s hfits
  have hexec := exec_ldm_of_fits hfits
  exact ⟨_, hexec, getV_afterLdm, toNat_indexAfterTransfer x s, afterLdm_ip,
    (exec_onlyChanges hexec).mono (partsWritten_ldm_subset _ x)⟩

/-- Settles O56: I is as it was, so the load reads where the store wrote. -/
theorem ldmAfterStmRestoresTheRegisters : Obligations.LdmAfterStmRestoresTheRegisters := by
  unfold Obligations.LdmAfterStmRestoresTheRegisters
  intro x s hmode hfits
  refine ⟨_, exec_stm_of_fits hfits, fun u hui hmem => ?_⟩
  have hi : u.i = s.i := by
    rw [hui]
    simp [afterStm, State.indexAfterTransfer, hmode]
  refine ⟨_, exec_ldm_of_fits (hi ▸ hfits), fun k hk => ?_⟩
  rw [getV_afterLdm, if_pos hk, hmem, hi, readByte_afterStm_of_le hk, ofNat_toNat_nibble]

/-- Settles O57: the four share the check of an access. -/
theorem accessPastTheTopFaultsFirst : Obligations.AccessPastTheTopFaultsFirst := by
  unfold Obligations.AccessPastTheTopFaultsFirst
  intro s
  have hn {n : Nibble} (h : n ≠ 0) : n.toNat ≠ 0 := fun h0 => h (BitVec.eq_of_toNat_eq h0)
  exact ⟨fun x y n hne h => guardRange_of_not_fits _ _ _ (hn hne) h,
    fun x h => guardRange_of_not_fits _ _ _ (by decide) h,
    fun x h => ⟨guardRange_of_not_fits _ _ _ (Nat.succ_ne_zero _) h,
      guardRange_of_not_fits _ _ _ (Nat.succ_ne_zero _) h⟩⟩

/-- Settles O58: the glyph address is 5 times a digit, so below 80. -/
theorem fontPointsAtTheGlyphBytes : Obligations.FontPointsAtTheGlyphBytes := by
  unfold Obligations.FontPointsAtTheGlyphBytes
  intro x s hstride hglyphs
  obtain ⟨t, ht, hi, -, hframe⟩ := indexRegisterIsLoadedAddedAndPointed.2.2 x s
  refine ⟨t, ht, fun k hk => ?_⟩
  have hlt : 5 * ((s.getV x).toNat % 16) + k < 80 := by omega
  have haddr : t.i.toNat = 5 * ((s.getV x).toNat % 16) := by rw [hi, hstride]; omega
  have hmem : ∀ a, t.readByte a = s.readByte a := hframe .memory (by decide)
  rw [haddr, hmem, hglyphs _ hlt, Vector.getElem?_eq_getElem hlt]

/-- Settles O29: a fetch reads the memory `stm` left. -/
theorem storedBytesAreFetchedAsWritten : Obligations.StoredBytesAreFetchedAsWritten := by
  unfold Obligations.StoredBytesAreFetchedAsWritten
  intro x s k hfits hk
  refine ⟨_, exec_stm_of_fits hfits, ?_⟩
  have hip : (BitVec.ofNat 16 (s.i.toNat + k)).toNat = s.i.toNat + k := by
    rw [BitVec.toNat_ofNat]
    omega
  rw [State.fetchWord_of_fits _ (by rw [hip]; omega), hip]
  have hread (a : Nat) : State.readByte { afterStm x s with ip := BitVec.ofNat 16 (s.i.toNat + k) } a =
      (afterStm x s).readByte a := rfl
  rw [hread, hread, Nat.add_assoc, readByte_afterStm_of_le (by omega), readByte_afterStm_of_le hk]

end
end Sys2Proof.Proofs

/-! The machine's invariant, and the state that `load` and reset make (10_state.md R28, R42,
70_reset_and_hazards.md R230). -/

namespace Sys2Proof.Proofs
section
open Sys2Proof Sys2Proof.Machine

variable {s t : State}

/-! ### The load -/

/-- The table of R42 with memory as it is outside a program. -/
def fresh (s : State) : State :=
  { s with
    mode := .loaded, v := Vector.replicate 16 0, i := 0, ip := BitVec.ofNat 16 programBase, stack := [], mem := [],
    fb := Frame.blank, dt := 0, st := 0, renderRequest := false, soundAlert := false }

theorem load_eq (s : State) (bytes : List Byte) : s.load bytes =
    if s.cfg.maxProgramBytes.val < bytes.length then none else some ((fresh s).writeBytes programBase bytes) := rfl

theorem load_of_le {bytes : List Byte} (h : bytes.length ≤ s.cfg.maxProgramBytes.val) :
    s.load bytes = some ((fresh s).writeBytes programBase bytes) := by
  rw [load_eq, if_neg (Nat.not_lt.mpr h)]

theorem load_of_gt {bytes : List Byte} (h : s.cfg.maxProgramBytes.val < bytes.length) : s.load bytes = none := by
  rw [load_eq, if_pos h]

theorem load_eq_some_iff {bytes : List Byte} : s.load bytes = some t ↔
    bytes.length ≤ s.cfg.maxProgramBytes.val ∧ t = (fresh s).writeBytes programBase bytes := by
  by_cases h : bytes.length ≤ s.cfg.maxProgramBytes.val
  · simp [load_of_le h, h, eq_comm]
  · simp [load_of_gt (Nat.not_le.mp h), h]

theorem perform_load (s : State) (bytes : List Byte) : perform (.load bytes) s = doneOrRefused s (s.load bytes) := rfl

theorem getV_fresh (s : State) (r : Nibble) : (fresh s).getV r = 0 := by
  simp [State.getV, fresh]

/-- Memory lists nothing, so each address reads as the contents outside a program (R42). -/
theorem readByte_of_mem_eq_nil (h : s.mem = []) (a : Nat) :
    s.readByte a = if h : a < 80 then s.cfg.font[a] else 0 := by
  rw [State.readByte, h, Memory.read_nil, Memory.unlisted]
  split <;> simp_all

/-! ### The invariant -/

theorem returnAddressesFit_iff : s.returnAddressesFit = true ↔ ∀ w ∈ s.stack, w.toNat ≤ memSize := by
  simp only [State.returnAddressesFit, List.all_eq_true, decide_eq_true_eq]

theorem stackFits_iff :
    s.stackFits = true ↔ ∀ depth, s.cfg.stackDepth = some depth → s.stack.length ≤ depth := by
  unfold State.stackFits
  cases s.cfg.stackDepth <;> simp

/-- A store inside the address space keeps the invariant. -/
theorem inv_writeBytes {base : Nat} {bs : List Byte} (h : s.Inv) (hfits : base + bs.length ≤ memSize) :
    (s.writeBytes base bs).Inv := by
  obtain ⟨hmem, hstack⟩ := h
  have hmem' := s.wf_writeBytes bs base hfits hmem
  rw [State.writeBytes_eq]
  exact ⟨hmem', hstack⟩

/-- The return address of a fetched instruction, pushed where there is room, keeps the invariant. -/
theorem inv_pushed (h : s.Inv) (hroom : s.hasRoom) (hip : s.ip.toNat ≤ 4094) : (s.pushed (s.ip + 2)).Inv := by
  obtain ⟨hmem, hfit, -⟩ := h
  rw [returnAddressesFit_iff] at hfit
  refine ⟨hmem, returnAddressesFit_iff.mpr ?_, stackFits_iff.mpr hroom⟩
  intro w hw
  obtain rfl | hw := List.mem_cons.mp hw
  · rw [BitVec.toNat_add]
    exact le_trans (Nat.mod_le _ _) (Nat.add_le_add_right hip 2)
  · exact hfit w hw

theorem inv_popped {top : Word} {rest : List Word} (h : s.Inv) (hs : s.stack = top :: rest) :
    (s.setStack rest).Inv := by
  obtain ⟨hmem, hfit, hdepth⟩ := h
  rw [returnAddressesFit_iff, hs] at hfit
  rw [stackFits_iff, hs] at hdepth
  exact ⟨hmem, returnAddressesFit_iff.mpr fun w hw => hfit w (List.mem_cons_of_mem top hw),
    stackFits_iff.mpr fun depth hd => Nat.le_of_succ_le (hdepth depth hd)⟩

/-- An instruction keeps the invariant: two store, inside the address space, three push or pop, and no other writes what
the invariant speaks of. -/
theorem exec_keeps_inv {i : Instr} (hinv : s.Inv) (hip : s.ip.toNat ≤ 4094) (h : exec i s = .next t) : t.Inv := by
  cases i
  case bcd x =>
    obtain ⟨hfits, h⟩ := guardRange_eq_next h
    cases h
    exact inv_writeBytes hinv (hfits.resolve_left (by decide))
  case stm x =>
    obtain ⟨hfits, h⟩ := guardRange_eq_next h
    cases h
    exact inv_writeBytes hinv (by rw [State.length_lowRegisters]; omega)
  case call nnn =>
    obtain ⟨hroom, rfl⟩ := pushAndJump_eq_next h
    exact inv_pushed hinv (stackFull_eq_false_iff.mp hroom) hip
  case jmpv0 nnn =>
    obtain ⟨-, hroom, rfl⟩ | ⟨-, rfl⟩ := exec_jmpv0_eq_next h
    · exact inv_pushed hinv (stackFull_eq_false_iff.mp hroom) hip
    · exact hinv
  case ret =>
    obtain ⟨top, rest, hs, h'⟩ | ⟨-, -, h'⟩ | ⟨-, -, h'⟩ := exec_ret_cases s <;> rw [h'] at h <;> cases h
    · have hpopped : (s.setStack rest).Inv := inv_popped hinv hs
      exact hpopped
    · exact hinv
    · exact hinv
  case wkey x =>
    obtain ⟨-, h'⟩ | ⟨k, -, h'⟩ := exec_wkey_cases x s <;> rw [h'] at h <;> cases h <;> exact hinv
  case skp x =>
    obtain ⟨-, rfl⟩ := exec_skp_eq_next h
    exact hinv
  case sknp x =>
    obtain ⟨-, rfl⟩ := exec_sknp_eq_next h
    exact hinv
  case draw x y n =>
    obtain ⟨-, h⟩ := guardRange_eq_next h
    cases h
    exact hinv
  case ldm x =>
    obtain ⟨-, h⟩ := guardRange_eq_next h
    cases h
    rw [State.setRegistersFrom_eq]
    exact hinv
  case addi x kk =>
    rw [exec_addi, State.writeResultAndFlag_eq] at h
    split at h <;> cases h <;> exact hinv
  case or | and | xor =>
    cases h
    rw [State.writeLogic_eq]
    exact hinv
  case add | sub | subn | shr | shl =>
    cases h
    rw [State.writeResultAndFlag_eq]
    exact hinv
  case rnd x kk =>
    cases h
    obtain ⟨b, bs, -, h⟩ | ⟨-, h⟩ := s.randomByte_cases <;> rw [h] <;> exact hinv
  all_goals
    cases h
    exact hinv

theorem stepInstruction_keeps_inv (hinv : s.Inv) (h : stepInstruction s = .next t) : t.Inv := by
  obtain ⟨i, hfetch, hexec⟩ := stepInstruction_eq_next h
  obtain ⟨-, hip, -⟩ := State.fetchInstr_eq_ok hfetch
  exact exec_keeps_inv (s := s.lowerRender) hinv hip hexec

theorem tick_keeps_inv (hinv : s.Inv) : s.tick.Inv := by
  unfold State.tick
  split <;> exact hinv

/-- The program area ends at the last address, since `MAX_PROGRAM_BYTES` is at most 3584 (R231). -/
theorem load_inv {bytes : List Byte} (h : s.load bytes = some t) : t.Inv := by
  obtain ⟨hle, rfl⟩ := load_eq_some_iff.mp h
  have hfresh : (fresh s).Inv := ⟨⟨List.Pairwise.nil, nofun⟩, rfl, stackFits_iff.mpr fun _ _ => Nat.zero_le _⟩
  refine inv_writeBytes hfresh ?_
  have hmax := s.cfg.maxProgramBytes.isLt
  unfold programBase memSize
  omega

/-- A host command other than `step` keeps the invariant. -/
theorem perform_keeps_inv {c : Command} {r : Reply} (hc : c ≠ .step) (hinv : s.Inv) (h : perform c s = .done t r) :
    t.Inv := by
  cases c with
  | step => exact absurd rfl hc
  | load bytes =>
    obtain ⟨hl, -⟩ | ⟨-, rfl, -⟩ := doneOrRefused_eq_done h
    · exact load_inv hl
    · exact hinv
  | setRegister index value =>
    obtain ⟨hs, -⟩ | ⟨-, rfl, -⟩ := doneOrRefused_eq_done h
    · exact hostSetRegister_eq_some hs ▸ hinv
    · exact hinv
  | setIp addr =>
    obtain ⟨hs, -⟩ | ⟨-, rfl, -⟩ := doneOrRefused_eq_done h
    · exact hostSetIp_eq_some hs ▸ hinv
    · exact hinv
  | tick =>
    cases h
    exact tick_keeps_inv hinv
  | getRegister index =>
    simp only [perform] at h
    split at h <;> cases h <;> exact hinv
  | getPixel | setPixel | setKeys | supplyRandom =>
    cases h
    exact hinv

end

section
open Sys2Proof Sys2Proof.Machine

/-- Settles O13: by the four kinds of transition, and for an instruction by what it stores, pushes and pops. -/
theorem stepKeepsInvariant : Obligations.StepKeepsInvariant := by
  unfold Obligations.StepKeepsInvariant
  intro s t hinv h
  obtain ⟨-, -, rfl⟩ | ⟨-, -, hs⟩ | ⟨cs, -, hs⟩ | ⟨c, cs, r, -, hc, hp⟩ := step_eq_next h
  · exact tick_keeps_inv hinv
  · exact stepInstruction_keeps_inv (s := s.setSchedule s.schedule.countStep) hinv hs
  · exact stepInstruction_keeps_inv (s := s.setQueue cs) hinv hs
  · exact perform_keeps_inv (s := s.setQueue cs) hc hinv hp

/-- Settles O12: memory lists nothing and the stack is empty. -/
theorem invariantHoldsAtReset : Obligations.InvariantHoldsAtReset := by
  unfold Obligations.InvariantHoldsAtReset
  exact ⟨⟨List.Pairwise.nil, nofun⟩, rfl, rfl⟩

/-- Settles O15: the program is written over the fresh state, and the bytes outside it are those of empty memory. -/
theorem loadMakesTheMachineFresh : Obligations.LoadMakesTheMachineFresh := by
  unfold Obligations.LoadMakesTheMachineFresh
  intro s bytes
  refine ⟨fun hle => ⟨(fresh s).writeBytes programBase bytes, ?accepted⟩, fun hgt => ?refused⟩
  case refused => rw [perform_load, load_of_gt hgt, doneOrRefused]
  case accepted =>
    have hkept : OnlyChanges [.memory] (fresh s) ((fresh s).writeBytes programBase bytes) := onlyChanges_writeBytes
    refine ⟨by rw [perform_load, load_of_le hle, doneOrRefused], hkept .mode (by decide),
      fun r => (hkept .registers (by decide) r).trans (getV_fresh s r), hkept .index (by decide), hkept .ip (by decide),
      hkept .stack (by decide), fun a => ?memory,
      fun x y => (hkept .screen (by decide) x y).trans (Frame.pixel_blank x y), hkept .delayTimer (by decide),
      hkept .soundTimer (by decide), hkept .renderRequest (by decide), hkept .soundAlert (by decide),
      hkept .keys (by decide), hkept .cfg (by decide)⟩
    case memory =>
      rw [State.readByte_writeBytes, readByte_of_mem_eq_nil (s := fresh s) rfl]
      rfl

/-- Settles O11. -/
theorem resetLeavesTheListedValues : Obligations.ResetLeavesTheListedValues := by
  unfold Obligations.ResetLeavesTheListedValues
  have hmem := readByte_of_mem_eq_nil (s := State.reset) rfl
  refine ⟨rfl, fun r => ?register, rfl, rfl, rfl, fun a ha => ?glyph, fun a ha => ?zero, Frame.pixel_blank, rfl, rfl,
    rfl, rfl, rfl⟩
  case register => simp [State.getV, State.reset]
  case glyph =>
    rw [hmem, dif_pos ha]
    rfl
  case zero => rw [hmem, dif_neg (Nat.not_lt.mpr ha)]

end
end Sys2Proof.Proofs

/-! The transition of the machine and the host's commands (30_encoding.md R80, 10_state.md R39-R41,
60_exceptions.md R210-R226). -/

namespace Sys2Proof.Proofs
section
open Sys2Proof Sys2Proof.Machine

variable {s t : State} {i : Instr} {cs : List Command}

/-! ### The fetch -/

theorem fetchInstr_of_idle (hmode : s.mode = .idle) : s.fetchInstr = .error .notLoaded := by
  unfold State.fetchInstr
  rw [hmode]

theorem fetchInstr_of_not_fits (hmode : s.mode = .loaded) (hip : 4094 < s.ip.toNat) :
    s.fetchInstr = .error (.outOfBounds (max s.ip.toNat 4096)) := by
  unfold State.fetchInstr
  rw [hmode, s.fetchWord_of_not_fits hip]

theorem fetchInstr_of_lookup_eq_none (hmode : s.mode = .loaded) (hip : s.ip.toNat ≤ 4094)
    (hlookup : lookupByOpcode s.cfg.sysPresent (s.readByte s.ip.toNat ++ s.readByte (s.ip.toNat + 1)) = none) :
    s.fetchInstr = .error (.decodeError (s.readByte s.ip.toNat ++ s.readByte (s.ip.toNat + 1))) := by
  unfold State.fetchInstr
  rw [hmode, s.fetchWord_of_fits hip]
  simp only [hlookup]

theorem fetchInstr_of_lookup_eq_some (hmode : s.mode = .loaded) (hip : s.ip.toNat ≤ 4094)
    (hlookup : lookupByOpcode s.cfg.sysPresent (s.readByte s.ip.toNat ++ s.readByte (s.ip.toNat + 1)) = some i) :
    s.fetchInstr = .ok i := by
  unfold State.fetchInstr
  rw [hmode, s.fetchWord_of_fits hip]
  simp only [hlookup]

/-! ### The transition -/

theorem stepInstruction_of_fetch_eq_ok (h : s.fetchInstr = .ok i) : stepInstruction s = exec i s.lowerRender := by
  unfold stepInstruction
  rw [h]

theorem stepInstruction_of_fetch_eq_error {f : Fault} (h : s.fetchInstr = .error f) :
    stepInstruction s = .fault f := by
  unfold stepInstruction
  rw [h]
  rfl

theorem step_of_queue_nil (hq : s.queue = []) : step s = runLoopStep s := by
  unfold step runNext
  rw [hq]

theorem step_of_queue_nil_of_not_tick (hq : s.queue = []) (htick : s.tickIsNext = false) :
    step s = stepInstruction (s.setSchedule s.schedule.countStep) := by
  rw [step_of_queue_nil hq, runLoopStep, htick]
  rfl

theorem step_of_queue_nil_of_tick (hq : s.queue = []) (htick : s.tickIsNext = true) :
    step s = .next (s.tick.setSchedule s.schedule.countTick) := by
  rw [step_of_queue_nil hq, runLoopStep, if_pos htick]

theorem step_of_queue_step (hq : s.queue = .step :: cs) : step s = stepInstruction (s.setQueue cs) := by
  unfold step runNext
  rw [hq]

theorem step_of_queue_cons {c : Command} (hq : s.queue = c :: cs) (hc : c ≠ .step) :
    step s = (perform c (s.setQueue cs)).toResult := by
  unfold step runNext
  rw [hq]
  cases c
  case step => exact absurd rfl hc
  all_goals rfl

/-! ### The tick -/

theorem tick_of_loaded (hmode : s.mode = .loaded) :
    s.tick = { s with dt := countDown s.dt, st := countDown s.st, soundAlert := s.st == 1 } := by
  unfold State.tick
  rw [hmode]

theorem tick_of_idle (hmode : s.mode = .idle) : s.tick = s := by
  unfold State.tick
  rw [hmode]

theorem onlyChanges_tick : OnlyChanges [.delayTimer, .soundTimer, .soundAlert] s s.tick := by
  cases hmode : s.mode with
  | idle =>
    rw [tick_of_idle hmode]
    exact OnlyChanges.refl _ s
  | loaded =>
    rw [tick_of_loaded hmode]
    intro p hp
    cases p <;> simp_all [Part.kept, State.getV, State.readByte]

theorem countDown_zero {b : Byte} (h : b = 0) : countDown b = 0 := if_pos h

theorem toNat_countDown_succ {b : Byte} (h : b ≠ 0) : (countDown b).toNat + 1 = b.toNat := by
  have hpos : b.toNat ≠ 0 := fun h0 => h (BitVec.eq_of_toNat_eq h0)
  rw [countDown, if_neg h, BitVec.toNat_sub]
  simp
  omega

/-- The alert is the transition from 1 to 0 (R219). -/
theorem alert_iff (b : Byte) : (b == 1) = true ↔ b = 1 ∧ countDown b = 0 := by
  rw [beq_iff_eq]
  constructor
  · rintro rfl
    exact ⟨rfl, rfl⟩
  · exact And.left

/-! ### The host's reading and writing -/

theorem perform_setRegister_of_le {index value : Nat} (hi : index ≤ 15) (hv : value ≤ 255) :
    perform (.setRegister index value) s = .done (s.setV (BitVec.ofNat 4 index) (BitVec.ofNat 8 value)) .ok := by
  simp only [perform, State.hostSetRegister, if_pos (And.intro hi hv), doneOrRefused]

theorem toNat_getV_setV_ofNat {index value : Nat} (hi : index ≤ 15) (hv : value ≤ 255) (r : Nibble) :
    ((s.setV (BitVec.ofNat 4 index) (BitVec.ofNat 8 value)).getV r).toNat =
      if r.toNat = index then value else (s.getV r).toNat := by
  have hr : r = BitVec.ofNat 4 index ↔ r.toNat = index := by
    rw [← BitVec.toNat_inj, BitVec.toNat_ofNat, Nat.mod_eq_of_lt (by omega)]
  rw [State.getV_setV]
  by_cases h : r.toNat = index
  · rw [if_pos (hr.mpr h), if_pos h, BitVec.toNat_ofNat, Nat.mod_eq_of_lt (by omega)]
  · rw [if_neg (fun hc => h (hr.mp hc)), if_neg h]

/-! ### The step command in a session -/

theorem performStep_of_fetch_eq_error {f : Fault} (h : s.fetchInstr = .error f) :
    performStep s = .done s.lowerRender (.fault f) := by
  unfold performStep
  rw [h]

theorem performStep_of_exec_eq_fault {f : Fault} (hfetch : s.fetchInstr = .ok i)
    (hexec : exec i s.lowerRender = .fault f) (hf : ∀ a, f ≠ .outOfBounds a) :
    performStep s = .done s.lowerRender (.fault f) := by
  unfold performStep
  simp only [hfetch, hexec]

theorem performStep_of_exec_outOfBounds {a : Nat} (hfetch : s.fetchInstr = .ok i)
    (hexec : exec i s.lowerRender = .fault (.outOfBounds a)) : performStep s = .lost s (.outOfBounds a) := by
  unfold performStep
  simp only [hfetch, hexec]

/-! ### A session after a lost state -/

theorem session_cons (c : Command) (cs : List Command) (k : Known) :
    session (c :: cs) k =
      ((performKnown c k).1 :: (session cs (performKnown c k).2).1, (session cs (performKnown c k).2).2) := rfl

theorem performKnown_of_lost {c : Command} {f : Fault} (h : perform c s = .lost t f) :
    performKnown c (.all s) = (.fault f, .inputs t) := by
  simp only [performKnown, h]

theorem performKnown_load_inputs {bytes : List Byte} (h : s.load bytes = some t) :
    performKnown (.load bytes) (.inputs s) = (.ok, .all t) := by
  simp only [performKnown, performUnobservable, h]

theorem performKnown_load_inputs_refused {bytes : List Byte} (h : s.load bytes = none) :
    performKnown (.load bytes) (.inputs s) = (.refused, .inputs s) := by
  simp only [performKnown, performUnobservable, h]

/-- The parts that the machine does not write, which stay known after a lost state (R212). -/
structure SameInputs (s s' : State) : Prop where
  cfg : s'.cfg = s.cfg
  keys : s'.keys = s.keys
  rand : s'.rand = s.rand
  draws : s'.draws = s.draws
  queue : s'.queue = s.queue
  schedule : s'.schedule = s.schedule

theorem SameInputs.fresh_eq {s s' : State} (h : SameInputs s s') : fresh s' = fresh s := by
  obtain ⟨hcfg, hkeys, hrand, hdraws, hqueue, hschedule⟩ := h
  simp only [fresh, hcfg, hkeys, hrand, hdraws, hqueue, hschedule]

/-- An accepted load makes the rest of the state fresh, so it forgets all that may differ. -/
theorem SameInputs.load_eq {s s' : State} (h : SameInputs s s') (bytes : List Byte) : s'.load bytes = s.load bytes := by
  rw [Proofs.load_eq, Proofs.load_eq, h.fresh_eq, h.cfg]

/-- What is known is the same, or is the inputs and they are the same. -/
inductive SameKnown : Known → Known → Prop
  | refl (k : Known) : SameKnown k k
  | inputs {s s' : State} (h : SameInputs s s') : SameKnown (.inputs s) (.inputs s')

/-- A command in a lost state is answered from its arguments and the inputs, and keeps the inputs known. -/
theorem SameInputs.performUnobservable {s s' : State} (h : SameInputs s s') (c : Command) :
    (performUnobservable c s').1 = (performUnobservable c s).1 ∧
      SameKnown (performUnobservable c s).2 (performUnobservable c s').2 := by
  cases c with
  | load bytes =>
    simp only [Machine.performUnobservable, h.load_eq bytes]
    cases s.load bytes with
    | none => exact ⟨rfl, .inputs h⟩
    | some t => exact ⟨rfl, .refl _⟩
  | step => exact ⟨rfl, .inputs { h with rand := rfl }⟩
  | setKeys keys => exact ⟨rfl, .inputs { h with keys := rfl }⟩
  | supplyRandom b => exact ⟨rfl, .inputs { h with rand := congrArg (· ++ [b]) h.rand }⟩
  | tick | getRegister | setRegister | setIp | getPixel | setPixel => exact ⟨rfl, .inputs h⟩

theorem SameKnown.performKnown {k k' : Known} (h : SameKnown k k') (c : Command) :
    (performKnown c k').1 = (performKnown c k).1 ∧ SameKnown (performKnown c k).2 (performKnown c k').2 := by
  cases h with
  | refl => exact ⟨rfl, .refl _⟩
  | inputs h => exact h.performUnobservable c

/-- A session's replies depend on what is known alone. -/
theorem SameKnown.session {k k' : Known} (h : SameKnown k k') (cs : List Command) :
    (session cs k').1 = (session cs k).1 := by
  induction cs generalizing k k' with
  | nil => rfl
  | cons c cs ih =>
    obtain ⟨hreply, hknown⟩ := h.performKnown c
    rw [session_cons, session_cons, hreply, ih hknown]

end

section
open Sys2Proof Sys2Proof.Machine

/-- Settles O8. -/
theorem stepRunsTheDecodedInstruction : Obligations.StepRunsTheDecodedInstruction := by
  unfold Obligations.StepRunsTheDecodedInstruction
  intro s i hmode hip hlookup
  refine ⟨fun hq htick => ?_, fun cs hq => ?_⟩
  · rw [step_of_queue_nil_of_not_tick hq htick]
    exact stepInstruction_of_fetch_eq_ok (fetchInstr_of_lookup_eq_some hmode hip hlookup)
  · rw [step_of_queue_step hq]
    exact stepInstruction_of_fetch_eq_ok (fetchInstr_of_lookup_eq_some hmode hip hlookup)

/-- Settles O9: the step of the run loop faults with the fetch's error. -/
theorem stepFaultsInPriorityOrder : Obligations.StepFaultsInPriorityOrder := by
  unfold Obligations.StepFaultsInPriorityOrder
  intro s hq htick
  rw [step_of_queue_nil_of_not_tick hq htick]
  refine ⟨fun hmode => ?idle, fun hmode hip => ?above, fun hmode hip => ?top, fun hmode hip hnone => ?word⟩
  case idle => exact stepInstruction_of_fetch_eq_error (fetchInstr_of_idle hmode)
  case above =>
    have hfetch := fetchInstr_of_not_fits hmode (Nat.lt_of_succ_lt hip)
    rw [Nat.max_eq_left hip] at hfetch
    exact stepInstruction_of_fetch_eq_error hfetch
  case top =>
    have hfetch := fetchInstr_of_not_fits hmode (by omega)
    rw [hip] at hfetch
    exact stepInstruction_of_fetch_eq_error hfetch
  case word =>
    exact stepInstruction_of_fetch_eq_error (fetchInstr_of_lookup_eq_none hmode (Nat.le_of_lt_succ hip) hnone)

/-- Settles O10. -/
theorem queuedCommandIsPerformedBeforeAnyStep : Obligations.QueuedCommandIsPerformedBeforeAnyStep := by
  unfold Obligations.QueuedCommandIsPerformedBeforeAnyStep
  intro s c cs hq hc
  obtain ⟨t, r, hp, hrefused⟩ := perform_of_ne_step (s.setQueue cs) c hc
  refine ⟨t, r, hp, ?_, hrefused⟩
  rw [step_of_queue_cons hq hc, hp, Performed.toResult]

/-- Settles O16: what one firing does in each mode, and that a queued one is performed. -/
theorem tickCountsBothTimersDown : Obligations.TickCountsBothTimersDown := by
  unfold Obligations.TickCountsBothTimersDown
  refine ⟨fun s hmode => ?loaded, fun s hmode => ?idle, fun s bytes t => load_mode, fun s cs hq => ?queued⟩
  case loaded =>
    refine ⟨s.tick, rfl, ?_⟩
    have hframe := onlyChanges_tick (s := s)
    rw [tick_of_loaded hmode] at hframe ⊢
    exact ⟨countDown_zero, toNat_countDown_succ, countDown_zero, toNat_countDown_succ, alert_iff s.st, hframe⟩
  case idle => rw [perform, tick_of_idle hmode]
  case queued =>
    refine ⟨(s.setQueue cs).tick, rfl, ?_⟩
    rw [step_of_queue_cons hq nofun]
    rfl

/-- Settles O17: in range each is one write or one read, and out of range each is refused. -/
theorem hostRegisterAndIpCommands : Obligations.HostRegisterAndIpCommands := by
  unfold Obligations.HostRegisterAndIpCommands
  refine ⟨fun s index value hi hv => ?set, fun s index value hout => ?setRefused, perform_getRegister_toNat,
    fun s index hout => ?getRefused, fun s addr haddr => ?setIp, fun s addr hout => ?setIpRefused⟩
  case set =>
    exact ⟨_, perform_setRegister_of_le hi hv, toNat_getV_setV_ofNat hi hv, onlyChanges_setV⟩
  case setRefused =>
    have hrange : ¬ (index ≤ 15 ∧ value ≤ 255) := by omega
    simp only [perform, State.hostSetRegister, if_neg hrange, doneOrRefused]
  case getRefused => simp only [perform, State.hostGetRegister, if_neg (Nat.not_le.mpr hout)]
  case setIp =>
    refine ⟨s.setIp (BitVec.ofNat 16 addr), ?_, ?_, onlyChanges_setIp⟩
    · simp only [perform, State.hostSetIp, if_pos haddr, doneOrRefused]
    · rw [State.setIp_ip, BitVec.toNat_ofNat, Nat.mod_eq_of_lt (by omega)]
  case setIpRefused => simp only [perform, State.hostSetIp, if_neg (Nat.not_le.mpr hout), doneOrRefused]

/-- Settles O21: a step with the pulse low already fetches and executes as the one before it. -/
theorem faultLeavesTheSessionWhereItWas : Obligations.FaultLeavesTheSessionWhereItWas := by
  unfold Obligations.FaultLeavesTheSessionWhereItWas
  intro s t f h
  obtain ⟨f', hfetch, rfl, hr⟩ | ⟨i, hfetch, ⟨-, hr⟩ | ⟨f', hexec, hne, rfl, hr⟩ | ⟨e, -, -, hr⟩⟩ :=
    performStep_eq_done h <;> cases hr
  · exact ⟨rfl, performStep_of_fetch_eq_error (s := s.lowerRender) hfetch⟩
  · exact ⟨rfl, performStep_of_exec_eq_fault (s := s.lowerRender) hfetch hexec hne⟩

/-- Settles O59: after a lost state only the inputs are known, and a load makes all else fresh. -/
theorem loadMakesTheMachineKnownAfterALostFault : Obligations.LoadMakesTheMachineKnownAfterALostFault := by
  unfold Obligations.LoadMakesTheMachineKnownAfterALostFault
  refine ⟨fun s i a => performStep_of_exec_outOfBounds,
    fun s a hlost bytes => ⟨fun hle => ?accepted, fun hgt cs => ?refused⟩, fun s s' cs hkept => ?inputs⟩
  case accepted =>
    refine ⟨_, load_of_le hle, fun cs => ?_⟩
    rw [session_cons, performKnown_of_lost hlost, session_cons, performKnown_load_inputs (load_of_le hle)]
  case refused =>
    rw [session_cons, performKnown_of_lost hlost, session_cons, performKnown_load_inputs_refused (load_of_gt hgt)]
  case inputs =>
    have hsame : SameInputs s s' := ⟨hkept .cfg (by decide), hkept .keys (by decide), hkept .randomInput (by decide),
      hkept .freeValues (by decide), hkept .queue (by decide), hkept .schedule (by decide)⟩
    exact ((SameKnown.inputs hsame).session cs).symm

end
end Sys2Proof.Proofs

/-! What an instruction does not depend on: the timers, the alert and the keys (20_memory.md R57, 10_state.md R32,
70_reset_and_hazards.md R236). -/

namespace Sys2Proof.Proofs

/-- The fields that the 60 Hz tick and the host's `KEY` input write. -/
structure Outside where
  dt : Byte
  st : Byte
  alert : Bool
  keys : Vector Bool 16

section
open Sys2Proof Sys2Proof.Machine

/-- The state with those fields replaced. -/
def Outside.put (o : Outside) (s : State) : State :=
  { s with dt := o.dt, st := o.st, soundAlert := o.alert, keys := o.keys }

/-- An answer with its next state changed. -/
def mapNext (g : State → State) : Result → Result
  | .next t => .next (g t)
  | .fault f => .fault f
  | .refused r => .refused r

variable (o : Outside) (s : State)

theorem mapNext_guardRange (g : State → State) (base len : Nat) (effect : Result) :
    mapNext g (guardRange base len effect) = guardRange base len (mapNext g effect) := by
  unfold guardRange
  split <;> rfl

/-! ### The operations on a state with those fields replaced -/

theorem put_readBytes (base len : Nat) : (o.put s).readBytes base len = s.readBytes base len := by
  induction len generalizing base with
  | zero => rfl
  | succ len ih =>
    rw [State.readBytes, State.readBytes, ih]
    rfl

theorem put_writeBytes (base : Nat) (bs : List Byte) :
    (o.put s).writeBytes base bs = o.put (s.writeBytes base bs) := by
  induction bs generalizing s base with
  | nil => rfl
  | cons b bs ih => exact ih (s.writeByte base b) (base + 1)

theorem put_setRegistersFrom (k : Nat) (bs : List Byte) :
    (o.put s).setRegistersFrom k bs = o.put (s.setRegistersFrom k bs) := by
  induction bs generalizing s k with
  | nil => rfl
  | cons b bs ih => exact ih (s.setV (BitVec.ofNat 4 k) b) (k + 1)

theorem put_writeResultAndFlag (x : Nibble) (r : Nat) (f : Byte) :
    (o.put s).writeResultAndFlag x r f = o.put (s.writeResultAndFlag x r f) := by
  have hcfg : (o.put s).cfg = s.cfg := rfl
  unfold State.writeResultAndFlag
  rw [hcfg]
  cases s.cfg.vfWriteOrder <;> rfl

theorem put_writeLogic (x : Nibble) (r : Byte) : (o.put s).writeLogic x r = o.put (s.writeLogic x r) := by
  have hcfg : (o.put s).cfg = s.cfg := rfl
  unfold State.writeLogic
  rw [hcfg, put_writeResultAndFlag]
  split <;> rfl

theorem put_randomByte : (o.put s).randomByte = (s.randomByte.1, o.put s.randomByte.2) := by
  have hrand : (o.put s).rand = s.rand := rfl
  unfold State.randomByte
  rw [hrand]
  cases s.rand <;> rfl

theorem put_pushAndJump (target : Word) : (o.put s).pushAndJump target = mapNext o.put (s.pushAndJump target) := by
  have hfull : (o.put s).stackFull = s.stackFull := rfl
  unfold State.pushAndJump
  rw [hfull]
  split <;> rfl

theorem put_withKeyOperand (x : Nibble) {use use' : Nat → Result} (h : ∀ k, use' k = mapNext o.put (use k)) :
    (o.put s).withKeyOperand x use' = mapNext o.put (s.withKeyOperand x use) := by
  have hv : (o.put s).getV x = s.getV x := rfl
  unfold State.withKeyOperand
  rw [hv]
  split
  · rfl
  · exact h _

theorem drawn_put (x y n : Nibble) : drawn x y n (o.put s) = drawn x y n s := by
  unfold drawn
  rw [put_readBytes]
  rfl

/-! ### An instruction on a state with those fields replaced -/

/-- The instructions that read or write a timer (R57). -/
def Timed (i : Instr) : Prop := ∃ x, i = .gdt x ∨ i = .sdt x ∨ i = .sst x

/-- The instructions that read the keys (R32). -/
def Keyed (i : Instr) : Prop := ∃ x, i = .skp x ∨ i = .sknp x ∨ i = .wkey x

theorem exec_put_of_keyed {i : Instr} (hi : Keyed i) (hkeys : o.keys = s.keys) :
    exec i (o.put s) = mapNext o.put (exec i s) := by
  have hdown (k : Nat) : (o.put s).keyDown k = s.keyDown k := by
    unfold State.keyDown
    rw [← hkeys]
    rfl
  obtain ⟨x, rfl | rfl | rfl⟩ := hi
  · rw [exec_skp, exec_skp]
    refine put_withKeyOperand o s x fun k => ?_
    rw [hdown]
    rfl
  · rw [exec_sknp, exec_sknp]
    refine put_withKeyOperand o s x fun k => ?_
    rw [hdown]
    rfl
  · have hpressed : (o.put s).pressedKeys = s.pressedKeys := by
      unfold State.pressedKeys
      simp only [hdown]
    rw [exec_wkey, exec_wkey]
    unfold execWkey
    rw [hpressed]
    cases s.pressedKeys <;> rfl

theorem exec_put_of_not_keyed {i : Instr} (htimed : ¬ Timed i) (hkeyed : ¬ Keyed i) :
    exec i (o.put s) = mapNext o.put (exec i s) := by
  cases i
  case gdt x => exact absurd ⟨x, .inl rfl⟩ htimed
  case sdt x => exact absurd ⟨x, .inr (.inl rfl)⟩ htimed
  case sst x => exact absurd ⟨x, .inr (.inr rfl)⟩ htimed
  case skp x => exact absurd ⟨x, .inl rfl⟩ hkeyed
  case sknp x => exact absurd ⟨x, .inr (.inl rfl)⟩ hkeyed
  case wkey x => exact absurd ⟨x, .inr (.inr rfl)⟩ hkeyed
  case ret =>
    have hcfg : (o.put s).cfg = s.cfg := rfl
    have hstack : (o.put s).stack = s.stack := rfl
    rw [exec_ret, exec_ret]
    unfold execRet
    rw [hcfg, hstack]
    cases s.stack with
    | cons top rest => rfl
    | nil => cases s.cfg.retEmpty <;> rfl
  case call nnn => exact put_pushAndJump o s _
  case jmpv0 nnn =>
    have hcfg : (o.put s).cfg = s.cfg := rfl
    rw [exec_jmpv0, exec_jmpv0, hcfg, put_pushAndJump]
    split <;> rfl
  case draw x y n =>
    rw [exec_draw, exec_draw, mapNext_guardRange, afterDraw, drawn_put]
    rfl
  case bcd x =>
    rw [exec_bcd, exec_bcd, mapNext_guardRange, afterBcd, put_writeBytes]
    rfl
  case stm x =>
    rw [exec_stm, exec_stm, mapNext_guardRange, afterStm, put_writeBytes]
    rfl
  case ldm x =>
    rw [exec_ldm, exec_ldm, mapNext_guardRange, afterLdm, put_readBytes, put_setRegistersFrom]
    rfl
  case addi x kk =>
    have hcfg : (o.put s).cfg = s.cfg := rfl
    rw [exec_addi, exec_addi, hcfg, put_writeResultAndFlag]
    split <;> rfl
  case or x y | and x y | xor x y =>
    exact congrArg (fun u : State => Host.Outcome.next u.advance) (put_writeLogic o s x _)
  case add x y | sub x y | subn x y | shr x y | shl x y =>
    exact congrArg (fun u : State => Host.Outcome.next u.advance) (put_writeResultAndFlag o s x _ _)
  case rnd x kk =>
    rw [exec_rnd, exec_rnd, put_randomByte]
    rfl
  all_goals rfl

theorem exec_put {i : Instr} (htimed : ¬ Timed i) (hkeys : ¬ Keyed i ∨ o.keys = s.keys) :
    exec i (o.put s) = mapNext o.put (exec i s) := by
  by_cases hkeyed : Keyed i
  · exact exec_put_of_keyed o s hkeyed (hkeys.resolve_left (not_not_intro hkeyed))
  · exact exec_put_of_not_keyed o s htimed hkeyed

variable {o s}

theorem exec_put_eq_next {i : Instr} {t : State} (htimed : ¬ Timed i) (hkeys : ¬ Keyed i ∨ o.keys = s.keys)
    (h : exec i s = .next t) : exec i (o.put s) = .next (o.put t) := by
  rw [exec_put o s htimed hkeys, h, mapNext]

theorem exec_put_eq_fault {i : Instr} {f : Fault} (htimed : ¬ Timed i) (hkeys : ¬ Keyed i ∨ o.keys = s.keys)
    (h : exec i s = .fault f) : exec i (o.put s) = .fault f := by
  rw [exec_put o s htimed hkeys, h, mapNext]

/-- No instruction writes the keys or the alert, and only `sdt` and `sst` write a timer. -/
theorem not_mem_partsWritten (cfg : Config) {i : Instr} (htimed : ¬ Timed i) :
    .delayTimer ∉ partsWritten cfg i ∧ .soundTimer ∉ partsWritten cfg i ∧ .soundAlert ∉ partsWritten cfg i ∧
      .keys ∉ partsWritten cfg i := by
  cases i
  case sdt x => exact absurd ⟨x, .inr (.inl rfl)⟩ htimed
  case sst x => exact absurd ⟨x, .inr (.inr rfl)⟩ htimed
  case stm | ldm | jmpv0 =>
    simp only [partsWritten]
    split <;> decide
  all_goals simp [partsWritten]

/-! ### The tick and the host's keys as such replacements -/

/-- What a tick makes of those fields in mode `loaded`. -/
def afterTick (s : State) : Outside :=
  { dt := countDown s.dt, st := countDown s.st, alert := s.st == 1, keys := s.keys }

/-- What the host's `KEY` input makes of those fields. -/
def withKeys (keys : Vector Bool 16) (s : State) : Outside :=
  { dt := s.dt, st := s.st, alert := s.soundAlert, keys := keys }

theorem tick_eq_put (h : s.mode = .loaded) : s.tick = (afterTick s).put s := tick_of_loaded h

theorem put_withKeys (keys : Vector Bool 16) (s : State) : (withKeys keys s).put s = { s with keys := keys } := rfl

variable {t : State} {i : Instr}

theorem afterTick_eq (htimed : ¬ Timed i) (h : exec i s = .next t) : afterTick t = afterTick s := by
  obtain ⟨hdt, hst, -, hkeys⟩ := not_mem_partsWritten s.cfg htimed
  have hframe := exec_onlyChanges h
  have hdt' : t.dt = s.dt := hframe .delayTimer hdt
  have hst' : t.st = s.st := hframe .soundTimer hst
  have hkeys' : t.keys = s.keys := hframe .keys hkeys
  simp only [afterTick, hdt', hst', hkeys']

theorem withKeys_eq (keys : Vector Bool 16) (htimed : ¬ Timed i) (h : exec i s = .next t) :
    withKeys keys t = withKeys keys s := by
  obtain ⟨hdt, hst, halert, -⟩ := not_mem_partsWritten s.cfg htimed
  have hframe := exec_onlyChanges h
  have hdt' : t.dt = s.dt := hframe .delayTimer hdt
  have hst' : t.st = s.st := hframe .soundTimer hst
  have halert' : t.soundAlert = s.soundAlert := hframe .soundAlert halert
  simp only [withKeys, hdt', hst', halert']

theorem exec_mode (h : exec i s = .next t) : t.mode = s.mode := by
  have hkeeps := keepsMode_exec i s
  rwa [h] at hkeeps

theorem exec_tick_eq_next (htimed : ¬ Timed i) (h : exec i s = .next t) : exec i s.tick = .next t.tick := by
  have hmode := exec_mode h
  cases hm : s.mode with
  | idle => rw [tick_of_idle hm, tick_of_idle (hmode.trans hm), h]
  | loaded =>
    rw [tick_eq_put hm, tick_eq_put (hmode.trans hm), afterTick_eq htimed h]
    exact exec_put_eq_next htimed (.inr rfl) h

theorem exec_tick_eq_fault {f : Fault} (htimed : ¬ Timed i) (h : exec i s = .fault f) : exec i s.tick = .fault f := by
  cases hm : s.mode with
  | idle => rw [tick_of_idle hm, h]
  | loaded =>
    rw [tick_eq_put hm]
    exact exec_put_eq_fault htimed (.inr rfl) h

/-- The three timer instructions do not read the keys either. -/
theorem exec_withKeys_of_timed (keys : Vector Bool 16) (htimed : Timed i) :
    exec i { s with keys := keys } = mapNext (fun t => { t with keys := keys }) (exec i s) := by
  obtain ⟨x, rfl | rfl | rfl⟩ := htimed <;> rfl

theorem exec_withKeys (keys : Vector Bool 16) (hkeyed : ¬ Keyed i) :
    exec i { s with keys := keys } = mapNext (fun t => { t with keys := keys }) (exec i s) := by
  by_cases htimed : Timed i
  · exact exec_withKeys_of_timed keys htimed
  · rw [← put_withKeys, exec_put _ _ htimed (.inl hkeyed)]
    cases h : exec i s with
    | next t => rw [mapNext, mapNext, ← withKeys_eq keys htimed h, put_withKeys]
    | fault f => rfl
    | refused r => rfl

end

section
open Sys2Proof Sys2Proof.Machine

/-- Settles O26: a tick replaces fields that no other instruction reads or writes. -/
theorem tickCommutesWithUntimedInstructions : Obligations.TickCommutesWithUntimedInstructions := by
  unfold Obligations.TickCommutesWithUntimedInstructions
  intro i s hi
  have htimed : ¬ Timed i := by
    rintro ⟨x, h⟩
    have := hi x
    tauto
  exact ⟨fun t => exec_tick_eq_next htimed, fun f => exec_tick_eq_fault htimed⟩

/-- Settles O27: no other instruction reads the keys. -/
theorem onlyKeyInstructionsReadTheKeys : Obligations.OnlyKeyInstructionsReadTheKeys := by
  unfold Obligations.OnlyKeyInstructionsReadTheKeys
  intro i s keys hi
  have hkeyed : ¬ Keyed i := by
    rintro ⟨x, h⟩
    have := hi x
    tauto
  refine ⟨fun t h => ?_, fun f h => ?_⟩ <;> rw [exec_withKeys keys hkeyed, h, mapNext]

end
end Sys2Proof.Proofs

/-! Runs: the jump to itself, and that ticks and steps keep coming (60_exceptions.md R220, R227). -/

namespace Sys2Proof.Proofs
section
open Sys2Proof Sys2Proof.Machine

variable {s t : State}

/-! ### The jump to itself -/

theorem ip_le_of_atSelfJump (h : s.atSelfJump) : s.ip.toNat ≤ 4094 := by
  obtain ⟨-, hword⟩ := h
  by_contra hip
  rw [s.fetchWord_of_not_fits (Nat.not_le.mp hip)] at hword
  cases hword

/-- An address below 4096 is its own 12-bit operand. -/
theorem addressOperand_setWidth {w : Word} (h : w.toNat < 4096) : addressOperand (w.setWidth 12) = w := by
  apply BitVec.eq_of_toNat_eq
  rw [toNat_addressOperand, BitVec.toNat_setWidth, Nat.mod_eq_of_lt h]

theorem encode_jmp_self {w : Word} (h : w.toNat < 4096) : encode (.jmp (w.setWidth 12)) = 0x1000 ||| w :=
  congrArg (0x1000 ||| ·) (addressOperand_setWidth h)

theorem exec_jmp (nnn : Addr12) (s : State) : exec (.jmp nnn) s = .next (s.setIp (addressOperand nnn)) := rfl

/-- At a self-jump an instruction step changes nothing but the render pulse, which it lowers. -/
theorem stepInstruction_of_atSelfJump (h : s.atSelfJump) : stepInstruction s = .next s.lowerRender := by
  have hip := ip_le_of_atSelfJump h
  have hlt : s.ip.toNat < 4096 := by omega
  obtain ⟨hmode, hword⟩ := h
  rw [s.fetchWord_of_fits hip, ← encode_jmp_self hlt] at hword
  have hlookup := congrArg (lookupByOpcode s.cfg.sysPresent) (Except.ok.inj hword)
  rw [lookupByOpcode_encode rfl] at hlookup
  rw [stepInstruction_of_fetch_eq_ok (fetchInstr_of_lookup_eq_some hmode hip hlookup), exec_jmp,
    addressOperand_setWidth hlt]
  rfl

theorem atSelfJump_tick (h : s.atSelfJump) : s.tick.atSelfJump := by
  rw [tick_of_loaded h.1]
  exact h

/-! ### What a transition leaves pending -/

theorem onlyChanges_setSchedule {c : Schedule} : OnlyChanges [.schedule] s (s.setSchedule c) := by
  intro p hp
  cases p <;> simp_all [Part.kept]

theorem tick_queue : s.tick.queue = s.queue := onlyChanges_tick .queue (by decide)

theorem queue_schedule_not_mem_partsWritten (cfg : Config) (i : Instr) :
    .queue ∉ partsWritten cfg i ∧ .schedule ∉ partsWritten cfg i := by
  cases i
  case stm | ldm | jmpv0 =>
    simp only [partsWritten]
    split <;> decide
  all_goals simp [partsWritten]

theorem stepInstruction_keeps_queue_schedule (h : stepInstruction s = .next t) :
    t.queue = s.queue ∧ t.schedule = s.schedule := by
  obtain ⟨i, -, hexec⟩ := stepInstruction_eq_next h
  obtain ⟨hqueue, hschedule⟩ := queue_schedule_not_mem_partsWritten s.cfg i
  have hframe := exec_onlyChanges hexec
  exact ⟨hframe .queue hqueue, hframe .schedule hschedule⟩

theorem step_queue_of_cons {c : Command} {cs : List Command} (hq : s.queue = c :: cs) (h : step s = .next t) :
    t.queue = cs := by
  obtain ⟨hnil, -⟩ | ⟨hnil, -⟩ | ⟨cs', hcons, hs⟩ | ⟨c', cs', r, hcons, hc, hp⟩ := step_eq_next h
  · cases hq.symm.trans hnil
  · cases hq.symm.trans hnil
  · cases hq.symm.trans hcons
    exact (stepInstruction_keeps_queue_schedule hs).1
  · cases hq.symm.trans hcons
    exact (perform_keeps_queue_schedule _ hc hp).1

theorem stepInstruction_next_or_fault (s : State) :
    (∃ t, stepInstruction s = .next t) ∨ ∃ f, stepInstruction s = .fault f := by
  cases hfetch : s.fetchInstr with
  | error f => exact .inr ⟨f, stepInstruction_of_fetch_eq_error hfetch⟩
  | ok i =>
    rw [stepInstruction_of_fetch_eq_ok hfetch]
    exact (exec_nextOrFault i s.lowerRender).imp_right fun ⟨f, hf, _⟩ => ⟨f, hf⟩

/-- A transition has a next state or stops with a fault: no instruction is refused, and no command but `step` stops. -/
theorem step_next_or_fault (s : State) : (∃ t, step s = .next t) ∨ ∃ f, step s = .fault f := by
  cases hq : s.queue with
  | nil =>
    cases htick : s.tickIsNext with
    | true => exact .inl ⟨_, step_of_queue_nil_of_tick hq htick⟩
    | false =>
      rw [step_of_queue_nil_of_not_tick hq htick]
      exact stepInstruction_next_or_fault _
  | cons c cs =>
    by_cases hc : c = .step
    · rw [step_of_queue_step (hc ▸ hq)]
      exact stepInstruction_next_or_fault _
    · obtain ⟨t, r, hp, -⟩ := perform_of_ne_step (s.setQueue cs) c hc
      exact .inl ⟨t, by rw [step_of_queue_cons hq hc, hp, Performed.toResult]⟩

/-! ### Reaching a state, or stopping before it -/

/-- The run from `s` stops, or comes to a state with `P`. -/
def Reaches (P : State → Prop) (s : State) : Prop :=
  ∃ k, (∃ f, core.run k s = .fault f) ∨ ∃ u, core.run k s = .next u ∧ P u

theorem Reaches.here {P : State → Prop} (h : P s) : Reaches P s := ⟨0, .inr ⟨s, rfl, h⟩⟩

theorem Reaches.of_step {P : State → Prop} (h : ∀ t, step s = .next t → Reaches P t) : Reaches P s := by
  obtain ⟨t, ht⟩ | ⟨f, hf⟩ := step_next_or_fault s
  · obtain ⟨k, hk⟩ := h t ht
    exact ⟨k + 1, by rwa [run_succ_of_next ht]⟩
  · exact ⟨1, .inl ⟨f, run_succ_of_fault hf 0⟩⟩

theorem Reaches.trans {P Q : State → Prop} (h : Reaches P s) (hPQ : ∀ u, P u → Reaches Q u) : Reaches Q s := by
  obtain ⟨k, hfault | ⟨u, hu, hP⟩⟩ := h
  · exact ⟨k, .inl hfault⟩
  · obtain ⟨j, hj⟩ := hPQ u hP
    exact ⟨k + j, by rwa [run_add hu]⟩

/-- Each transition takes a command off what is pending. -/
theorem reaches_queue_nil (s : State) : Reaches (fun u => u.queue = []) s := by
  induction hq : s.queue generalizing s with
  | nil => exact .here hq
  | cons c cs ih => exact .of_step fun t ht => ih t (step_queue_of_cons hq ht)

/-- The run loop has nothing pending and its tick next to move, or its step where `tick` is false. -/
def NextMove (tick : Bool) (u : State) : Prop := u.queue = [] ∧ u.tickIsNext = tick

/-- The run loop's instruction step is taken in mode `loaded` before the tick is due, and is counted. -/
theorem step_of_not_tick (hq : s.queue = []) (htick : s.tickIsNext = false) (h : step s = .next t) :
    s.schedule.steps ≤ Config.stepsBeforeTick s.schedule.round ∧ t.queue = [] ∧
      t.schedule = s.schedule.countStep := by
  rw [step_of_queue_nil_of_not_tick hq htick] at h
  obtain ⟨hqueue, hschedule⟩ := stepInstruction_keeps_queue_schedule h
  obtain ⟨i, hfetch, -⟩ := stepInstruction_eq_next h
  obtain ⟨hmode, -, -⟩ := State.fetchInstr_eq_ok hfetch
  refine ⟨?_, hqueue.trans hq, hschedule⟩
  rw [State.tickIsNext_of_loaded s hmode, ← Bool.not_eq_true, Schedule.tickDue_iff] at htick
  exact Nat.not_lt.mp htick

/-- The steps of a round come to an end. -/
theorem reaches_tick {s : State} (hq : s.queue = []) : Reaches (NextMove true) s := by
  cases htick : s.tickIsNext with
  | true => exact .here ⟨hq, htick⟩
  | false =>
    refine .of_step fun t ht => ?_
    obtain ⟨hle, hqueue, hschedule⟩ := step_of_not_tick hq htick ht
    exact reaches_tick hqueue
termination_by Config.stepsBeforeTick s.schedule.round + 1 - s.schedule.steps
decreasing_by
  rw [hschedule, Schedule.countStep_round, Schedule.countStep_steps]
  omega

theorem tickIsNext_of_not_tickDue (h : s.schedule.tickDue = false) : s.tickIsNext = false := by
  unfold State.tickIsNext
  cases s.mode
  · rfl
  · exact h

/-- The run loop's tick is counted, and keeps nothing pending. -/
theorem step_of_tick (hq : s.queue = []) (htick : s.tickIsNext = true) (h : step s = .next t) :
    t.queue = [] ∧ t.schedule = s.schedule.countTick := by
  rw [step_of_queue_nil_of_tick hq htick] at h
  cases h
  exact ⟨tick_queue.trans hq, rfl⟩

/-- The ticks of a round come to an end. -/
theorem reaches_step {s : State} (hq : s.queue = []) : Reaches (NextMove false) s := by
  cases htick : s.tickIsNext with
  | false => exact .here ⟨hq, htick⟩
  | true =>
    refine .of_step fun t ht => ?_
    obtain ⟨hqueue, hschedule⟩ := step_of_tick hq htick ht
    obtain ⟨hlt, hcount⟩ | ⟨-, hdue⟩ := s.schedule.countTick_cases
    · exact reaches_step hqueue
    · exact .here ⟨hqueue, tickIsNext_of_not_tickDue (hschedule ▸ hdue)⟩
termination_by Config.ticksBeforeStep s.schedule.round - s.schedule.ticks
decreasing_by
  rw [hschedule, hcount]
  exact Nat.sub_succ_lt_self _ _ hlt

/-- What every state's run comes to, every run comes to from as far as it has got. -/
theorem exists_later_of_reaches {P : State → Prop} (h : ∀ u, Reaches P u) {n : Nat}
    (hrun : core.run n s = .next t) :
    ∃ m, n ≤ m ∧ ((∃ f, core.run m s = .fault f) ∨ ∃ u, core.run m s = .next u ∧ P u) := by
  obtain ⟨k, hk⟩ := h t
  exact ⟨n + k, Nat.le_add_right n k, by rwa [run_add hrun]⟩

theorem mode_of_tickIsNext (h : s.tickIsNext = true) : s.mode = .loaded := by
  unfold State.tickIsNext at h
  split at h
  · cases h
  · assumption

end

section
open Sys2Proof Sys2Proof.Machine

/-- Settles O28: the word decodes to a jump to ip, and a tick leaves ip and memory. -/
theorem selfJumpIsTheEndOfARun : Obligations.SelfJumpIsTheEndOfARun := by
  unfold Obligations.SelfJumpIsTheEndOfARun
  intro s hjump hq
  cases htick : s.tickIsNext with
  | false =>
    refine ⟨(s.setSchedule s.schedule.countStep).lowerRender, ?_, hjump, hq, fun _ => rfl, nofun⟩
    rw [step_of_queue_nil_of_not_tick hq htick]
    exact stepInstruction_of_atSelfJump hjump
  | true =>
    exact ⟨s.tick.setSchedule s.schedule.countTick, step_of_queue_nil_of_tick hq htick, atSelfJump_tick hjump,
      tick_queue.trans hq, nofun, fun _ => rfl⟩

/-- Settles O60: pending commands are taken off one by one, and each round has finitely many steps and ticks. -/
theorem ticksFallBetweenStepsAndKeepComing : Obligations.TicksFallBetweenStepsAndKeepComing := by
  unfold Obligations.TicksFallBetweenStepsAndKeepComing
  refine ⟨fun s => mode_of_tickIsNext, fun s hq htick => ?tick, fun s => ⟨fun n t => ?ticks, fun n t => ?steps⟩⟩
  case tick =>
    exact ⟨_, step_of_queue_nil_of_tick hq htick, rfl, rfl, rfl, onlyChanges_tick.append onlyChanges_setSchedule⟩
  case ticks => exact exists_later_of_reaches fun u => (reaches_queue_nil u).trans fun _ => reaches_tick
  case steps => exact exists_later_of_reaches fun u => (reaches_queue_nil u).trans fun _ => reaches_step

end
end Sys2Proof.Proofs
